-- ==== Sys2Proof/Word.lean ====
section
/-!
DEFINITION. The byte, the one word type of this hardware (`00_scope.md` R7: "A byte is 8 bits"; every value is
unsigned, nothing is sign-extended). Addresses, array offsets, counts and queue-entry values are natural numbers
(R7), so they need no type of their own.
-/
namespace Sys2Proof

/-- A byte of the Memory Array or of the wire (R7, R30). -/
abbrev Byte := BitVec 8

end Sys2Proof
end

