-- ==== Sys2Proof/Config.lean ====
section
/-!
DEFINITION. What a build fixes (`00_scope.md` R6) and the free values the spec calls draws (R8).
The parameters are plain data: `State` carries them in a field that no step writes, so a statement over every state
is a statement over every admitted build.
-/
namespace Sys2Proof

/-- `ADDR_BITS`, the number of address bits of a frame: 16 or 24, no other value admitted (R6, decision D4). -/
inductive AddrBits where
  | a16
  | a24
  deriving DecidableEq, Repr

/-- The width as a number of frame bits (R6). -/
def AddrBits.bits : AddrBits → Nat
  | .a16 => 16
  | .a24 => 24

/-- `ADDR_BYTES = ADDR_BITS / 8` (R6). -/
def AddrBits.bytes (w : AddrBits) : Nat := w.bits / 8

/-- The admitted build for a requested width; 17 to 23, below 16 and above 24 are not admitted (R6, D4, U14). -/
def AddrBits.ofNat? (n : Nat) : Option AddrBits :=
  if n = 16 then some .a16 else if n = 24 then some .a24 else none

/-- `CMD_SHIFT = ADDR_BITS - 16`, the scaling of the dispatcher's opcode comparison (R6, R68, D5). -/
def AddrBits.cmdShift (w : AddrBits) : Nat := w.bits - 16

/-- The value the data-out line takes at a clock edge: `IDLE`, `0` or `1` (R8, R34). -/
inductive So where
  | idle
  | bit (b : Bool)
  deriving DecidableEq, Repr, Inhabited

/-- An electrical level of a line; the three candidates for `SO_IDLE` (R6, D8). -/
inductive LineLevel where
  | highZ
  | low
  | high
  deriving DecidableEq, Repr

/-- "pins": which four pins carry the bus signals, open (R6, R174, U23). A pin is its number. -/
structure Pins where
  /-- The pin of `CSn`. -/
  csn : Nat
  /-- The pin of `SCK`. -/
  sck : Nat
  /-- The pin of `SI`. -/
  si : Nat
  /-- The pin of `SO`. -/
  so : Nat
  deriving DecidableEq, Repr

/-- "instances": which instance of each of the five resources that setup claims is used, open (R6, R173, U23). An
instance is its number. -/
structure Instances where
  /-- The instance of the inbound shifter `RXSM`. -/
  rxsm : Nat
  /-- The instance of the outbound shifter `TXSM`. -/
  txsm : Nat
  /-- The instance of the send-side engine `SDE`. -/
  sde : Nat
  /-- The instance of the receive-side engine `RVE`. -/
  rve : Nat
  /-- The instance of the address hand-off engine `HOE`. -/
  hoe : Nat
  deriving DecidableEq, Repr

/-- The timing parameters, open and read by no rule (R6, R192, U23, D13, D14). The spec gives no unit and no value; a
parameter is a whole number of some unit of the builder's (DESIGN CHOICE, log entry 21). -/
structure Timing where
  /-- `F_MAX`, the highest bus clock rate at which every rule holds. -/
  fMax : Nat
  /-- `T_RESET`, the longest time from an observed deselect to the pipelines being re-armed. -/
  tReset : Nat
  /-- `T_SAMPLE`, the period of the dispatcher's chip-select samples. -/
  tSample : Nat
  deriving DecidableEq, Repr

/-- The build parameters (R6). `ADDR_BYTES` and `CMD_SHIFT` are functions of `ADDR_BITS`, and `READ_XFER_COUNT` is one
number in every build. -/
structure Config where
  /-- `ADDR_BITS`. -/
  addrBits : AddrBits
  /-- `MEM_SIZE`, the number of bytes of the Memory Array. -/
  memSize : Nat
  /-- `RVE_XFER_COUNT`, open; a statement that needs it never exhausted says so (D16). -/
  rveXferCount : Nat
  /-- `RX_DEPTH`, open, at least 1 (D15). -/
  rxDepth : Nat
  /-- `TX_DEPTH`, open, at least 1 (D15). -/
  txDepth : Nat
  /-- `PRESERVE`, the power-cycle flag (D17). -/
  preserve : Bool
  /-- `SO_IDLE`, the electrical meaning of `IDLE`, open (D8). -/
  soIdle : LineLevel
  /-- `F_MAX`, `T_RESET`, `T_SAMPLE`, open; no rule reads them (D13, D14). -/
  timing : Timing
  /-- The pins, open; no rule depends on them. -/
  pins : Pins
  /-- The instances, open; no rule depends on them. -/
  instances : Instances
  deriving DecidableEq, Repr

/-- The same build but for what no functional rule reads: the timing and the wiring (R6, U23), and the idle level
(DEDUCED from R34, U6, D8; log entry 20). -/
def Config.rewire (c : Config) (l : LineLevel) (t : Timing) (p : Pins) (n : Instances) : Config :=
  { c with soIdle := l, timing := t, pins := p, instances := n }

/-- The ranges R6 admits for the open parameters: both queues hold at least one entry, and the receive-side count,
which is never exhausted within a transaction, is not 0 (D15, D16). -/
abbrev Config.wf (c : Config) : Prop := 1 ≤ c.rxDepth ∧ 1 ≤ c.txDepth ∧ 1 ≤ c.rveXferCount

/-- The build that `State.reset` carries: R6's defaults (16 address bits, 65536 bytes, `PRESERVE` false).
DESIGN CHOICE (log entry 2), unsafe: for the open parameters the spec gives no default; queue depths 4, a
receive-side count of 2^32 and a released idle line are the model's. DESIGN CHOICE (log entry 21), safe: so are the
timing numbers and the pin and instance numbers, which nothing reads. -/
def Config.default : Config where
  addrBits := .a16
  memSize := 65536
  rveXferCount := 4294967296
  rxDepth := 4
  txDepth := 4
  preserve := false
  soIdle := .highZ
  timing := ⟨1, 1, 1⟩
  pins := ⟨0, 1, 2, 3⟩
  instances := ⟨0, 1, 0, 1, 2⟩

/-- `READ_XFER_COUNT`, the total transfer count of the send-side engine, 65536 in both configurations (R6, R24). -/
def readXferCount : Nat := 65536

/-- The electrical level of a data-out value in a given build (R34: the meaning of `IDLE` is `SO_IDLE`). -/
def So.level (idleLevel : LineLevel) : So → LineLevel
  | .idle => idleLevel
  | .bit false => .low
  | .bit true => .high

/-- Free value: the `n`-th byte draw, `draw({0..255})` (R42, R46, R165). Nothing constrains it (log entry 5). -/
opaque Config.freeByte : Nat → Byte

/-- Free value: the `n`-th data-out draw, `draw({IDLE, 0, 1})`, of a dummy clock edge (R62, R91, D7; log entry 6). -/
opaque Config.freeSo : Nat → So

/-- Free value: what the storage held before setup at an offset, kept when `PRESERVE` is true: unspecified but fixed
for the run (R172, U17; log entry 7). -/
opaque Config.preservedByte : Nat → Byte

end Sys2Proof
end

