-- ==== Sys2Proof/Syntax.lean ====
section
/-!
DEFINITION. The instruction set: the four commands of `30_encoding.md` R66, each one whole transaction frame. One
constructor per row of `spec/opcode_table.json`.
-/
namespace Sys2Proof

/-- The class of a command byte (R29, R66, R113). -/
inductive Cmd where
  | read
  | fastRead
  | write
  | unknown
  deriving DecidableEq, Repr

/-- What follows the command byte of READ and FAST_READ. -/
inductive ReadArgs where
  /-- The frame ends inside the address field after these bits (R70, R136). -/
  | cut (got : List Bool)
  /-- The address, and the `SI` bits of every later clock: the data phase of READ, the dummy byte and the data phase
  of FAST_READ. Their values have no effect on `mem` or `SO`; their number is the length of the phase (R61, R62). -/
  | full (addr : Nat) (clocks : List Bool)
  deriving DecidableEq, Repr

/-- What follows the command byte of WRITE. -/
inductive WriteArgs where
  /-- The frame ends inside the address field after these bits (R70, R136). -/
  | cut (got : List Bool)
  /-- The address, the complete data bytes, and the trailing bits of an incomplete byte (R63, R65, R70). -/
  | full (addr : Nat) (data : List Byte) (trail : List Bool)
  deriving DecidableEq, Repr

/-- The instruction of this hardware, one SPI transaction whose command byte is complete (`30_encoding.md`, R66). -/
inductive Instr where
  /-- READ, command byte `0x03`, format `CA_OUT` (R61, R130). -/
  | read (args : ReadArgs)
  /-- FAST_READ, command byte `0x0B`, format `CA_DUMMY_OUT` (R62, R131). -/
  | fastRead (args : ReadArgs)
  /-- WRITE, command byte `0x02`, format `CA_IN` (R63, R132). -/
  | write (args : WriteArgs)
  /-- UNKNOWN, every other command byte, format `C_ONLY`: the byte, and every later bit (R63, R133). -/
  | unknown (cmd : Byte) (rest : List Bool)
  deriving DecidableEq, Repr

end Sys2Proof
end

