-- ==== Sys2Proof/WellFormed.lean ====
section
/-!
DEFINITION. Which instruction terms are frames: the checks of `30_encoding.md` R61 to R70 for a given address width.
-/
namespace Sys2Proof

/-- An incomplete address field has fewer than `ADDR_BITS` bits (R70: `8 <= m < C`). -/
def cutOk (w : AddrBits) (got : List Bool) : Bool := decide (got.length < w.bits)

/-- An address has `ADDR_BITS` bits (R64). -/
def addrOk (w : AddrBits) (addr : Nat) : Bool := decide (addr < 2 ^ w.bits)

/-- The arguments of READ and FAST_READ. -/
def ReadArgs.wf (w : AddrBits) : ReadArgs → Bool
  | .cut got => cutOk w got
  | .full addr _ => addrOk w addr

/-- The arguments of WRITE; fewer than 8 bits trail the last complete byte (R65, R70). -/
def WriteArgs.wf (w : AddrBits) : WriteArgs → Bool
  | .cut got => cutOk w got
  | .full addr _ trail => addrOk w addr && decide (trail.length < 8)

/-- A command byte is UNKNOWN when it is none of the three opcodes (R66). -/
def unknownCmdOk (cmd : Byte) : Bool := cmd != 0x03 && cmd != 0x0B && cmd != 0x02

/-- The instruction is a frame of a build with this address width. -/
def Instr.wf (w : AddrBits) : Instr → Bool
  | .read a => a.wf w
  | .fastRead a => a.wf w
  | .write a => a.wf w
  | .unknown cmd _ => unknownCmdOk cmd

end Sys2Proof
end

