-- ==== Sys2Proof/Decode.lean ====
section
/-!
DEFINITION. From the bits of a frame to the instruction and back (`30_encoding.md`). Every field is most significant
bit first (R64, R65, R44). The decoder is total on any list of bits; it rejects only a frame whose command byte is
incomplete, by name (R70).
-/
namespace Sys2Proof

/-! ### Fields -/

/-- The value of a field, its first bit on the wire the most significant (R64, R65). -/
def ofBits (bits : List Bool) : Nat := bits.foldl (fun v b => 2 * v + b.toNat) 0

/-- The low `n` bits of a value, most significant first (`enc_addr` of R69; R44). -/
def toBits : Nat → Nat → List Bool
  | 0, _ => []
  | n + 1, v => v.testBit n :: toBits n v

/-- A byte on the wire, bit 7 first (R44). -/
def byteBits (b : Byte) : List Bool := toBits 8 b.toNat

/-- Bytes on the wire, in the order given (R43, R44). -/
def bytesBits (bs : List Byte) : List Bool := bs.flatMap byteBits

/-- The complete bytes of a data phase and the bits that trail them (R65, R70). -/
def splitBytes : List Bool → List Byte × List Bool
  | b7 :: b6 :: b5 :: b4 :: b3 :: b2 :: b1 :: b0 :: rest =>
    (BitVec.ofNat 8 (ofBits [b7, b6, b5, b4, b3, b2, b1, b0]) :: (splitBytes rest).1, (splitBytes rest).2)
  | short => ([], short)

/-! ### The command map -/

/-- `classify` (R113): the popped command word against the three opcodes, both scaled by `CMD_SHIFT` (R68, D5). -/
def classify (w : AddrBits) (c : Nat) : Cmd :=
  if c <<< w.cmdShift = 0x03 <<< w.cmdShift then .read
  else if c <<< w.cmdShift = 0x0B <<< w.cmdShift then .fastRead
  else if c <<< w.cmdShift = 0x02 <<< w.cmdShift then .write
  else .unknown

/-! ### The decoder -/

/-- Why a frame is no instruction (R70). -/
inductive Reject where
  /-- No bit was clocked: nothing happens (`m = 0`). -/
  | emptyFrame
  /-- The command byte is incomplete (`1 <= m <= 7`). -/
  | shortCommand
  deriving DecidableEq, Repr

/-- The fields after the command byte of READ and FAST_READ (R61, R62, R70). -/
def decodeReadArgs (w : AddrBits) (body : List Bool) : ReadArgs :=
  if body.length < w.bits then .cut body
  else .full (ofBits (body.take w.bits)) (body.drop w.bits)

/-- The fields after the command byte of WRITE (R63, R70). -/
def decodeWriteArgs (w : AddrBits) (body : List Bool) : WriteArgs :=
  if body.length < w.bits then .cut body
  else
    .full (ofBits (body.take w.bits)) (splitBytes (body.drop w.bits)).1 (splitBytes (body.drop w.bits)).2

/-- The instruction a frame is (R60 to R70): the command byte selects, the build's address width places the fields. -/
def decode (w : AddrBits) (bits : List Bool) : Except Reject Instr :=
  if bits.length = 0 then .error .emptyFrame
  else if bits.length < 8 then .error .shortCommand
  else
    match classify w (ofBits (bits.take 8)) with
    | .read => .ok (.read (decodeReadArgs w (bits.drop 8)))
    | .fastRead => .ok (.fastRead (decodeReadArgs w (bits.drop 8)))
    | .write => .ok (.write (decodeWriteArgs w (bits.drop 8)))
    | .unknown => .ok (.unknown (BitVec.ofNat 8 (ofBits (bits.take 8))) (bits.drop 8))

/-! ### The encoder -/

/-- The frame bits after the command byte of READ and FAST_READ (R61, R62, R69). -/
def encodeReadArgs (w : AddrBits) : ReadArgs → List Bool
  | .cut got => got
  | .full addr clocks => toBits w.bits addr ++ clocks

/-- The frame bits after the command byte of WRITE (R63, R69). -/
def encodeWriteArgs (w : AddrBits) : WriteArgs → List Bool
  | .cut got => got
  | .full addr data trail => toBits w.bits addr ++ bytesBits data ++ trail

/-- The command byte of an instruction (R66). -/
def Instr.cmdByte : Instr → Byte
  | .read _ => 0x03
  | .fastRead _ => 0x0B
  | .write _ => 0x02
  | .unknown cmd _ => cmd

/-- The frame bits after the command byte. -/
def Instr.body (w : AddrBits) : Instr → List Bool
  | .read a => encodeReadArgs w a
  | .fastRead a => encodeReadArgs w a
  | .write a => encodeWriteArgs w a
  | .unknown _ rest => rest

/-- The frame of an instruction, in the order its bits are clocked (R61 to R63, R69). -/
def encode (w : AddrBits) (i : Instr) : List Bool := byteBits i.cmdByte ++ i.body w

/-! ### The opcode table's words -/

/-- The frame whose bytes are the table word's, first byte first, each bit 7 first: the low `nbits` of `v`, then
zero bytes up to `CMD`, `ADDR`, one dummy byte and one data byte (R61 to R63). -/
def tableFrame (w : AddrBits) (nbits v : Nat) : List Bool :=
  (List.range (max ((nbits + 7) / 8) (3 + w.bits / 8))).flatMap fun k =>
    toBits 8 ((v % 2 ^ nbits) >>> (8 * k))

/-- The instruction the decoder reads from a table word in the default build. -/
def decodeTableWord (nbits w : Nat) : Option Instr :=
  (decode Config.default.addrBits (tableFrame Config.default.addrBits nbits w)).toOption

end Sys2Proof
end

