-- ==== Sys2Proof/Machine/State.lean ====
section
/-!
DEFINITION. The state of the hardware as plain data: every field of `10_state.md` under the spec's own name, the
build parameters, and four fields of the model's own (the environment's pending inputs, the record of outputs, the
record of raised faults the spec itself asks for, and the counter of draws).
-/
namespace Sys2Proof.Machine

/-! ### Inbound path -/

/-- The three program positions of `RXSM` (R11). -/
inductive RxIp where
  /-- `RX_ENTRY`: collecting the 8 command bits. -/
  | entry
  /-- `RX_ADDR`: collecting the `ADDR_BITS` address bits. -/
  | addr
  /-- `RX_DATA`: collecting one data byte, for ever. -/
  | data
  deriving DecidableEq, Repr

/-- An entry of the receive queue: its width, 8 or `ADDR_BITS`, and its value (R13). -/
structure RxEntry where
  width : Nat
  value : Nat
  deriving DecidableEq, Repr

/-- The inbound path (R10 to R14). `rx.cnt` is the length of `isr` (`rxCnt` of `Flags.lean`). -/
structure Rx where
  /-- `rx.en` (R10). -/
  en : Bool
  /-- `rx.ip` (R11). -/
  ip : RxIp
  /-- `rx.isr`, the bits shifted in since the last push, first bit first (R12). -/
  isr : List Bool
  /-- `rx.fifo`, the receive queue, head first (R13). -/
  fifo : List RxEntry
  /-- `rx.stalled` (R14). -/
  stalled : Bool
  /-- `rx.addr_done`, the "bits consumed" signal (R14). -/
  addrDone : Bool
  deriving DecidableEq, Repr

/-! ### Outbound path -/

/-- The three program positions of `TXSM` (R16). -/
inductive TxIp where
  /-- `TX_ENTRY`: waiting for the first unit. -/
  | entry
  /-- `TX_DUMMY`: the fast-read slot's delay state. -/
  | dummy
  /-- `TX_SHIFT`: shifting data out. -/
  | shift
  deriving DecidableEq, Repr

/-- The jump target in the outbound shifter's instruction memory (R18). -/
inductive Slot where
  /-- `SLOT_NORMAL`. -/
  | normal
  /-- `SLOT_FAST`. -/
  | fast
  deriving DecidableEq, Repr

/-- The legal values of `tx.pull`: 32 or 8 bits (R20). -/
inductive Pull where
  | p32
  | p8
  deriving DecidableEq, Repr

/-- The outbound path (R15 to R20). `tx.cnt` is the length of `osr` (`txCnt` of `Flags.lean`). -/
structure Tx where
  /-- `tx.en` (R15). -/
  en : Bool
  /-- `tx.ip` (R16). -/
  ip : TxIp
  /-- `tx.dly`, the dummy clock edges still to pass, 0 to 8 (R16). -/
  dly : Nat
  /-- `tx.osr`, the bits still to be shifted out, first bit first (R17). -/
  osr : List Bool
  /-- `tx.jump` (R18). -/
  jump : Slot
  /-- `tx.fifo`, the transmit queue, head first; an entry is a list of bytes in wire order (R19). -/
  fifo : List (List Byte)
  /-- `tx.pull` (R20). -/
  pull : Pull
  deriving DecidableEq, Repr

/-! ### Transfer engines -/

/-- The address hand-off engine (R21). -/
structure Hoe where
  /-- `hoe.started`. -/
  started : Bool
  deriving DecidableEq, Repr

/-- The send-side engine's unit size (R25). -/
inductive SdeUnit where
  /-- `W32_BSWAP`, four bytes a transfer. -/
  | w32Bswap
  /-- `W8`, one byte a transfer. -/
  | w8
  deriving DecidableEq, Repr

/-- The send-side transfer engine (R22 to R25). -/
structure Sde where
  /-- `sde.busy` (R22). -/
  busy : Bool
  /-- `sde.raddr`, an offset into the Memory Array (R23). -/
  raddr : Nat
  /-- `sde.count`, the transfers still to make (R24). -/
  count : Nat
  /-- `sde.unit` (R25). -/
  unit : SdeUnit
  deriving DecidableEq, Repr

/-- The receive-side transfer engine (R26). -/
structure Rve where
  /-- `rve.busy`. -/
  busy : Bool
  /-- `rve.waddr`, an offset into the Memory Array. -/
  waddr : Nat
  /-- `rve.count`, the transfers still to make. -/
  count : Nat
  deriving DecidableEq, Repr

/-! ### Command dispatcher -/

/-- The dispatcher's position in its loop, the program-counter analogue (R27). -/
inductive DispState where
  | idle
  | decode
  | readArm
  | fastReadArm
  | writeArm
  | ignoreUnknown
  | awaitDeselect
  | resetPipelines
  deriving DecidableEq, Repr

/-- The dispatcher (R27 to R29). -/
structure Disp where
  /-- `disp.state` (R27). -/
  state : DispState
  /-- `disp.hi`, the glitch filter's counter, 0 to 2 (R28). -/
  hi : Nat
  /-- `disp.cmd`; `none` is the spec's `NONE` (R29). -/
  cmd : Option Cmd
  deriving DecidableEq, Repr

/-! ### System state, inputs and records -/

/-- `sys.phase` (R36). -/
inductive Phase where
  /-- `PRE_SETUP`: the setup call has not returned. -/
  | preSetup
  /-- `RUNNING`: the command core has been launched. -/
  | running
  /-- `HALTED`: a resource claim failed at setup; permanent. -/
  | halted
  deriving DecidableEq, Repr

/-- `sys.phase` and `sys.prio` (R36). -/
structure Sys where
  phase : Phase
  /-- `sys.prio`: the bus-arbitration priority directive is installed. No functional rule reads it (R36, R175). -/
  prio : Bool
  deriving DecidableEq, Repr

/-- The spec's modelling faults (R163), which a run records in `faults` and survives. They are not `Fault`, the
reason a step ends: the spec has the machine go on past them (R164, vectors V28, V90, P5), and says that no claim
about the hardware holds past them. -/
inductive SpecFault where
  /-- Raised by `RVE` when its pointer is at or beyond `MEM_SIZE`; the array is unchanged (R164). -/
  | writeOutOfRange (offset : Nat)
  /-- Raised by `SelectRise` after 1 to 7 bits of a command byte (R154). -/
  | shortCommand
  /-- Raised by a host access outside the quiescent window; it reads a draw and writes nothing (R165). -/
  | hostRace (offset : Nat)
  /-- Raised by bus traffic before setup, and by setup completing while selected (R166). -/
  | prematureTraffic
  /-- Named by R163 and R167; never raised where the end-of-transaction sequence is atomic, as here (R167). -/
  | earlySelect
  deriving DecidableEq, Repr

/-- The external events (R9), and the dispatcher's chip-select sample, whose instants no rule fixes (R9, R118): the
environment's schedule chooses them. -/
inductive Event where
  /-- `Setup`; the input is whether every resource claim succeeds (R152, R170). -/
  | setup (claimsOk : Bool)
  /-- `SelectFall`. -/
  | selectFall
  /-- `SelectRise`. -/
  | selectRise
  /-- `Clock(b)`: a rising edge of the bus clock with data-in `b`. -/
  | clock (b : Bool)
  /-- One instant at which `DispSample` may be taken (D14). -/
  | sample
  /-- `HostRead(i)`. -/
  | hostRead (i : Nat)
  /-- `HostWrite(i, v)`. -/
  | hostWrite (i : Nat) (v : Byte)
  deriving DecidableEq, Repr

/-- What the environment has pending: one event, or a whole transaction in the notation of R69. -/
inductive Input where
  | event (e : Event)
  /-- The bits of one frame: select, one clock a bit, deselect held until observed (R60, R69). -/
  | frame (bits : List Bool)
  deriving DecidableEq, Repr

/-- What the environment has been given: the `SO` value of a `Clock` event, or the byte of a `HostRead` (R9, R53). -/
inductive Output where
  | so (v : So)
  | host (i : Nat) (v : Byte)
  deriving DecidableEq, Repr

/-- The Memory Array's contents as (offset, byte) pairs in the one canonical form of `Memory.wf` (R30). -/
abbrev Memory := List Host.Cell

/-- The machine. -/
structure State where
  /-- The build parameters (R6), fixed before setup and never changed. -/
  cfg : Config
  /-- `sys.phase`, `sys.prio` (R36). -/
  sys : Sys
  /-- `csn`, the level of the select input; `true` is 1, deselected (R33). -/
  csn : Bool
  /-- `rx.*` (R10 to R14). -/
  rx : Rx
  /-- `tx.*` (R15 to R20). -/
  tx : Tx
  /-- `hoe.*` (R21). -/
  hoe : Hoe
  /-- `sde.*` (R22 to R25). -/
  sde : Sde
  /-- `rve.*` (R26). -/
  rve : Rve
  /-- `disp.*` (R27 to R29). -/
  disp : Disp
  /-- `mem` (R30). -/
  mem : Memory
  /-- `faults`, the record of raised faults, a set that only grows: no repeats, oldest first (R37). -/
  faults : List SpecFault
  /-- The model's own: what the environment does next, first input first (log entry 3). -/
  inbox : List Input
  /-- The model's own: every value returned to the environment, oldest first (log entry 3). -/
  trace : List Output
  /-- The model's own: how many draws have been made; the next free value is the draws' function at it. -/
  draws : Nat
  deriving DecidableEq, Repr

/-- Why a step ends the run. -/
inductive Fault where
  /-- Raised by a pull of `TXSM` from a queue entry whose size is not `tx.pull`. R92: "A state in which they disagree
  is unreachable; a model meeting one should fault rather than guess". Safe: the machine stops. -/
  | pullMismatch
  deriving DecidableEq, Repr

/-- Why a step is given no meaning. -/
inductive Refusal where
  /-- An instruction whose meaning is not written. No arm of `exec` answers with it. Safe: the machine stops. -/
  | notModelled (mnemonic : String)
  /-- Raised by a `Setup` event once setup has run: R177, "A second `Setup` event has no meaning and a model need not
  offer it". Safe: the machine stops. -/
  | secondSetup
  deriving DecidableEq, Repr

/-! ### Reset -/

/-- `rx.*` after setup and after a pipeline reset (R176, R122). -/
def Rx.initial : Rx where
  en := true
  ip := .entry
  isr := []
  fifo := []
  stalled := false
  addrDone := false

/-- `tx.*` after setup (R176). -/
def Tx.initial : Tx where
  en := true
  ip := .entry
  dly := 0
  osr := []
  jump := .normal
  fifo := []
  pull := .p32

/-- `disp.*` after setup and after a pipeline reset (R176, R122). -/
def Disp.initial : Disp where
  state := .idle
  hi := 0
  cmd := none

/-- The machine right after reset: the state after a successful setup, which is the power-on reset of this hardware
(R176 and the opening of `70_reset_and_hazards.md`), in the default build. The four engine registers the spec leaves
unspecified are 0: DESIGN CHOICE (log entry 4), unsafe; no rule reads one before a trigger write sets it. -/
def State.reset : State where
  cfg := Config.default
  sys := ⟨.running, true⟩
  csn := true
  rx := Rx.initial
  tx := Tx.initial
  hoe := ⟨false⟩
  sde := ⟨false, 0, 0, .w32Bswap⟩
  rve := ⟨false, 0, 0⟩
  disp := Disp.initial
  mem := []
  faults := []
  inbox := []
  trace := []
  draws := 0

/-! ### Field updates -/

/-- The state in a build that differs in the idle level, the timing and the wiring only. No step makes it: it is what
statements compare a run with. -/
def State.rewire (s : State) (l : LineLevel) (t : Timing) (p : Pins) (n : Instances) : State :=
  { s with cfg := s.cfg.rewire l t p n }

/-- The state with `sys` replaced. -/
def State.setSys (s : State) (v : Sys) : State := { s with sys := v }

/-- The state with `csn` replaced. -/
def State.setCsn (s : State) (v : Bool) : State := { s with csn := v }

/-- The state with `rx` replaced. -/
def State.setRx (s : State) (v : Rx) : State := { s with rx := v }

/-- The state with `tx` replaced. -/
def State.setTx (s : State) (v : Tx) : State := { s with tx := v }

/-- The state with `hoe` replaced. -/
def State.setHoe (s : State) (v : Hoe) : State := { s with hoe := v }

/-- The state with `sde` replaced. -/
def State.setSde (s : State) (v : Sde) : State := { s with sde := v }

/-- The state with `rve` replaced. -/
def State.setRve (s : State) (v : Rve) : State := { s with rve := v }

/-- The state with `disp` replaced. -/
def State.setDisp (s : State) (v : Disp) : State := { s with disp := v }

/-- The state with `mem` replaced. -/
def State.setMem (s : State) (v : Memory) : State := { s with mem := v }

/-- The state with `faults` replaced. -/
def State.setFaults (s : State) (v : List SpecFault) : State := { s with faults := v }

/-- The state with `inbox` replaced. -/
def State.setInbox (s : State) (v : List Input) : State := { s with inbox := v }

/-- The state with `trace` replaced. -/
def State.setTrace (s : State) (v : List Output) : State := { s with trace := v }

/-- The state with `draws` replaced. -/
def State.setDraws (s : State) (v : Nat) : State := { s with draws := v }

end Sys2Proof.Machine
end

