-- ==== Sys2Proof/Machine/Flags.lean ====
section
/-!
DEFINITION. The hardware has no condition codes (`44_commands.md` R140, "No command writes a flag"). What stands here
are the conditions the rules test: bit counts, queue-full and queue-empty, the enabling conditions of the agents, and
the host's window.
-/
namespace Sys2Proof.Machine

/-- `rx.cnt`, the number of bits shifted in since the last push: the length of `rx.isr` (R12). -/
def rxCnt (s : State) : Nat := s.rx.isr.length

/-- `tx.cnt`, the number of bits still to be shifted out: the length of `tx.osr` (R17). -/
def txCnt (s : State) : Nat := s.tx.osr.length

/-- `full(rx.fifo)` (R13). -/
def rxFull (s : State) : Bool := decide (s.cfg.rxDepth ≤ s.rx.fifo.length)

/-- `full(tx.fifo)` (R19). -/
def txFull (s : State) : Bool := decide (s.cfg.txDepth ≤ s.tx.fifo.length)

/-- The number of bits of a pull (R20). -/
def Pull.bits : Pull → Nat
  | .p32 => 32
  | .p8 => 8

/-- The number of bytes of a transfer of the send-side engine (R25, R93). -/
def SdeUnit.bytes : SdeUnit → Nat
  | .w32Bswap => 4
  | .w8 => 1

/-- How many bits the word being collected has: the bit-count constants of the inbound shift program (R31, R81). -/
def rxTarget (w : AddrBits) : RxIp → Nat
  | .entry => 8
  | .addr => w.bits
  | .data => 8

/-- The hardware serves traffic: the command core has been launched (R36, R170). -/
def running (s : State) : Bool := decide (s.sys.phase = .running)

/-- `RXSM` steps at a `Clock` event: enabled, selected, not stalled (R80). -/
def rxEnabled (s : State) : Bool := s.rx.en && !s.csn && !s.rx.stalled

/-- `TXSM` steps at a `Clock` event: enabled and selected (R90). -/
def txEnabled (s : State) : Bool := s.tx.en && !s.csn

/-- "patched": the outbound path is in its fast configuration (R116). -/
def patched (s : State) : Bool := decide (s.tx.jump = .fast)

/-- `DispSample` is enabled (R118). -/
def sampleEnabled (s : State) : Bool :=
  running s && decide (s.disp.hi < 2) &&
    (decide (s.disp.state = .awaitDeselect) || decide (s.disp.state = .writeArm) ||
      (decide (s.disp.state = .fastReadArm) && patched s))

/-- The quiescent window in which the host may reach the array (R53, R188). -/
def hostWindow (s : State) : Bool :=
  running s && decide (s.disp.state = .idle) && s.csn && decide (rxCnt s = 0)

/-- A rising select in `IDLE` leaves 1 to 7 bits of a command byte behind (R154). -/
def leavesShortCommand (s : State) : Bool :=
  decide (s.disp.state = .idle) && decide (1 ≤ rxCnt s) && decide (rxCnt s ≤ 7)

end Sys2Proof.Machine
end

