-- ==== Sys2Proof/Machine/Operands.lean ====
section
/-!
DEFINITION. The operands of the commands as the agents take them: what a consumer reads from a receive-queue entry
(`10_state.md` R13: an entry is not tagged, its position says what it is), and the bits of a transmit-queue entry.
-/
namespace Sys2Proof.Machine

/-- The command word the dispatcher pops (R112). -/
def commandWord (e : RxEntry) : Nat := e.value

/-- The address operand, zero-extended: a natural number, never scaled or offset (R64, R101). -/
def addressWord (e : RxEntry) : Nat := e.value

/-- The data byte the receive-side engine moves (R104). -/
def dataByte (e : RxEntry) : Byte := BitVec.ofNat 8 e.value

/-- The queue entry of a completed word: its width and its value, first bit the most significant (R81, R82). -/
def completedWord (isr : List Bool) : RxEntry := ⟨isr.length, ofBits isr⟩

/-- The bits of a transmit-queue entry in the order they are shifted out: bytes in wire order, bit 7 first (R44, R91). -/
def unitBits (e : List Byte) : List Bool := bytesBits e

end Sys2Proof.Machine
end

