-- ==== Sys2Proof/Machine/Ops.lean ====
section
/-!
DEFINITION. The shared operations: the Memory Array, draws, the records of faults and outputs, trigger writes and
aborts of the engines, the end-of-transaction entry and return (`60_exceptions.md` R158, R159: the nearest analogue
of taking an exception and returning from it), and sequencing of outcomes.
-/
namespace Sys2Proof.Machine

/-! ### The Memory Array -/

/-- What an offset that no cell lists reads as: the fill pattern `N mod 256`, or, in a build with `PRESERVE`, the
unspecified byte the storage held (R172). -/
def memDefault (preserve : Bool) (a : Nat) : Byte :=
  if preserve then Config.preservedByte a else BitVec.ofNat 8 a

/-- The cell listed for an offset. -/
def memLookup (a : Nat) : Memory → Option Byte
  | [] => none
  | c :: m => if c.1 = a then some c.2 else memLookup a m

/-- `mem[a]` (R30). -/
def memRead (preserve : Bool) (m : Memory) (a : Nat) : Byte :=
  (memLookup a m).getD (memDefault preserve a)

/-- List a byte for an offset, keeping the offsets rising. -/
def memPut (a : Nat) (v : Byte) : Memory → Memory
  | [] => [(a, v)]
  | c :: m => if a < c.1 then (a, v) :: c :: m else if a = c.1 then (a, v) :: m else c :: memPut a v m

/-- List nothing for an offset. -/
def memDrop (a : Nat) (m : Memory) : Memory := m.filter fun c => decide (c.1 ≠ a)

/-- `mem[a] <- v` (R30, R47), keeping the canonical form. -/
def memWrite (preserve : Bool) (m : Memory) (a : Nat) (v : Byte) : Memory :=
  if v = memDefault preserve a then memDrop a m else memPut a v m

/-- The canonical form: offsets strictly rising and inside the array, no cell equal to what its offset reads as
unlisted. -/
abbrev Memory.wf (preserve : Bool) (size : Nat) (m : Memory) : Prop :=
  m.Pairwise (fun c d => c.1 < d.1) ∧ ∀ c ∈ m, c.1 < size ∧ c.2 ≠ memDefault preserve c.1

/-- `mem[a]` in a state. -/
def readMem (s : State) (a : Nat) : Byte := memRead s.cfg.preserve s.mem a

/-! ### Records: raised faults, outputs, draws -/

/-- `raise`: record a spec fault (R8, R37). `faults` is a set that only grows. -/
def raiseFault (f : SpecFault) (s : State) : State :=
  if f ∈ s.faults then s else s.setFaults (s.faults ++ [f])

/-- Return a value to the environment. -/
def emit (o : Output) (s : State) : State := s.setTrace (s.trace ++ [o])

/-- One draw has been made. -/
def drawn (s : State) : State := s.setDraws (s.draws + 1)

/-! ### MemRead and MemWrite -/

/-- The byte `MemRead` gives for one offset: a draw at or beyond `MEM_SIZE` (R42, R46). -/
def loadByte (a : Nat) (s : State) : Byte :=
  if a < s.cfg.memSize then readMem s a else Config.freeByte s.draws

/-- The state after `MemRead` of one offset: reads have no side effect; a draw is used up (R46). -/
def afterLoad (a : Nat) (s : State) : State := if a < s.cfg.memSize then s else drawn s

/-- `MemRead(a, n)`: the bytes in ascending order and the state after (R46). -/
def loadBytes : Nat → Nat → State → List Byte × State
  | 0, _, s => ([], s)
  | n + 1, a, s =>
    (loadByte a s :: (loadBytes n (a + 1) (afterLoad a s)).1, (loadBytes n (a + 1) (afterLoad a s)).2)

/-- `MemWrite(a, 1, [v])`: at or beyond `MEM_SIZE` the array is unchanged and `WriteOutOfRange` raised (R42, R47). -/
def storeByte (a : Nat) (v : Byte) (s : State) : State :=
  if a < s.cfg.memSize then s.setMem (memWrite s.cfg.preserve s.mem a v)
  else raiseFault (.writeOutOfRange a) s

/-! ### Queues and engines -/

/-- `rx.fifo` without its head. -/
def popRx (s : State) : State := s.setRx { s.rx with fifo := s.rx.fifo.tail }

/-- The trigger write of the send-side engine: it sets the pointer and starts the transfer (R23, R94). -/
def triggerSde (a : Nat) (s : State) : State :=
  s.setSde { s.sde with raddr := a, count := readXferCount, busy := true }

/-- The abort of the send-side engine (R94). -/
def abortSde (s : State) : State := s.setSde { s.sde with busy := false }

/-- The trigger write of the receive-side engine (R26). -/
def triggerRve (a : Nat) (s : State) : State :=
  s.setRve { s.rve with waddr := a, count := s.cfg.rveXferCount, busy := true }

/-- The abort of the receive-side engine (R105). -/
def abortRve (s : State) : State := s.setRve { s.rve with busy := false }

/-- Move the dispatcher. -/
def gotoDisp (d : DispState) (s : State) : State := s.setDisp { s.disp with state := d }

/-- The fast configuration of the outbound path, the three patches in the order the source lists them (R97, R116). -/
def applyFastPatch (s : State) : State :=
  (s.setTx { s.tx with jump := .fast, pull := .p8 }).setSde { s.sde with unit := .w8 }

/-- The normal configuration of the outbound path (R97, R121). -/
def revertFastPatch (s : State) : State :=
  (s.setTx { s.tx with jump := .normal, pull := .p32 }).setSde { s.sde with unit := .w32Bswap }

/-! ### End of a transaction: entry and return -/

/-- `DispExitWrite` (R119): the drain is the enabling condition; then the abort. -/
def exitWrite (s : State) : Option State :=
  if s.rx.fifo.isEmpty || !s.rve.busy then some (gotoDisp .resetPipelines (abortRve s)) else none

/-- `DispExitRead` (R120): the abort, and the cancel of a hand-off that never fired. -/
def exitRead (s : State) : State :=
  gotoDisp .resetPipelines ((abortSde s).setHoe ⟨false⟩)

/-- `DispExitFast` (R121): the abort, and both patches reverted before the pipeline reset. -/
def exitFast (s : State) : State := gotoDisp .resetPipelines (revertFastPatch (abortSde s))

/-- `DispExitUnknown` (R124). -/
def exitUnknown (s : State) : State := gotoDisp .resetPipelines s

/-- The end-of-transaction entry (R158): nothing is saved; the exit step for `disp.cmd` halts the engaged engines and
control goes to the fixed state `RESET_PIPELINES`. `none` while the step is not enabled (the drain of a WRITE). -/
def endEntry (s : State) : Option State :=
  match s.disp.cmd with
  | some .write => exitWrite s
  | some .read => some (exitRead s)
  | some .fastRead => some (exitFast s)
  | some .unknown => some (exitUnknown s)
  | none => none

/-- Step 1 of the pipeline reset: disable both shifters (R122). -/
def resetDisable (p : Rx × Tx) : Rx × Tx := ({ p.1 with en := false }, { p.2 with en := false })

/-- Step 2: clear both queues. -/
def resetClear (p : Rx × Tx) : Rx × Tx := ({ p.1 with fifo := [] }, { p.2 with fifo := [] })

/-- Step 3: restart both shift registers. -/
def resetRestart (p : Rx × Tx) : Rx × Tx := ({ p.1 with isr := [], stalled := false }, { p.2 with osr := [] })

/-- Step 4: rewind both instruction pointers. -/
def resetRewind (p : Rx × Tx) : Rx × Tx :=
  ({ p.1 with ip := .entry, addrDone := false }, { p.2 with ip := .entry, dly := 0 })

/-- Step 5: re-enable both shifters. -/
def resetEnable (p : Rx × Tx) : Rx × Tx := ({ p.1 with en := true }, { p.2 with en := true })

/-- The five steps of the pipeline reset, in this order (R122, R191). -/
def pipelineReset (p : Rx × Tx) : Rx × Tx :=
  resetEnable (resetRewind (resetRestart (resetClear (resetDisable p))))

/-- The end-of-transaction return (R159), `DispReset` (R122): the five steps as one atomic step, then `IDLE`. -/
def endReturn (s : State) : State :=
  ((s.setRx (pipelineReset (s.rx, s.tx)).1).setTx (pipelineReset (s.rx, s.tx)).2).setDisp Disp.initial

/-! ### Outcomes -/

/-- Run the next piece on the state the first one answers; a stop is kept. -/
def andThen (o : Host.Outcome State Fault Refusal) (k : State → Host.Outcome State Fault Refusal) :
    Host.Outcome State Fault Refusal :=
  match o with
  | .next s => k s
  | .fault r => .fault r
  | .refused r => .refused r

/-- The state an outcome answers, if it answers one. -/
def nextState? : Host.Outcome State Fault Refusal → Option State
  | .next s => some s
  | .fault _ => none
  | .refused _ => none

end Sys2Proof.Machine
end

