-- ==== Sys2Proof/Machine/Dispatcher.lean ====
section
/-!
DEFINITION. The command dispatcher `DISP` (`43_dispatcher.md`): the non-sampling steps of its loop, one definition a
step, and the chip-select sample of its glitch filter.
-/
namespace Sys2Proof.Machine

/-- `IDLE` (R111): the blocking pop ends when the receive queue is not empty. -/
def dispWake (s : State) : Option State :=
  if s.rx.fifo.isEmpty then none else some (gotoDisp .decode s)

/-- Where `DECODE` goes for a command class (R112). -/
def armState : Cmd → DispState
  | .read => .readArm
  | .fastRead => .fastReadArm
  | .write => .writeArm
  | .unknown => .ignoreUnknown

/-- `DispDecode()` (R112). -/
def dispDecode (s : State) : Option State :=
  match s.rx.fifo with
  | [] => none
  | e :: _ =>
    let c := classify s.cfg.addrBits (commandWord e)
    some ((popRx s).setDisp { s.disp with cmd := some c, state := armState c })

/-- `DispReadArm()` (R114). -/
def dispReadArm (s : State) : State := gotoDisp .awaitDeselect (s.setHoe ⟨true⟩)

/-- `DispIgnore()` (R115). -/
def dispIgnore (s : State) : State := gotoDisp .awaitDeselect s

/-- `FAST_READ_ARM` (R116, R123): patch once; then an observed deselect abandons the address wait, and until then the
address word is popped and written to the send-side engine's trigger register. -/
def dispFastReadArm (s : State) : Option State :=
  if !patched s then some (applyFastPatch s)
  else if s.disp.hi = 2 then endEntry s
  else
    match s.rx.fifo with
    | [] => none
    | e :: _ =>
      if s.disp.hi < 2 then some (gotoDisp .awaitDeselect (triggerSde (addressWord e) (popRx s))) else none

/-- `WRITE_ARM` (R117, R123): an observed deselect abandons the address wait, and until then the address word is
popped and written to the receive-side engine's trigger register. -/
def dispWriteArm (s : State) : Option State :=
  if s.disp.hi = 2 then endEntry s
  else
    match s.rx.fifo with
    | [] => none
    | e :: _ =>
      if s.disp.hi < 2 then some (gotoDisp .awaitDeselect (triggerRve (addressWord e) (popRx s))) else none

/-- `AWAIT_DESELECT` (R118 to R124): the exit step once the deselect is observed. -/
def dispAwait (s : State) : Option State := if s.disp.hi = 2 then endEntry s else none

/-- The non-sampling step of the dispatcher, by its position: the transition table of R125. -/
def dispStep (s : State) : Option State :=
  match s.disp.state with
  | .idle => dispWake s
  | .decode => dispDecode s
  | .readArm => some (dispReadArm s)
  | .fastReadArm => dispFastReadArm s
  | .writeArm => dispWriteArm s
  | .ignoreUnknown => some (dispIgnore s)
  | .awaitDeselect => dispAwait s
  | .resetPipelines => some (endReturn s)

/-- `DispSample()` (R118): a high sample counts up, a low sample clears the count; nothing where it is not enabled. -/
def dispSample (s : State) : State :=
  if sampleEnabled s then s.setDisp { s.disp with hi := if s.csn then s.disp.hi + 1 else 0 } else s

end Sys2Proof.Machine
end

