-- ==== Sys2Proof/Machine/Handoff.lean ====
section
/-!
DEFINITION. The address hand-off engine `HOE` and the receive-side transfer engine `RVE` (`42_address_handoff.md`).
-/
namespace Sys2Proof.Machine

/-- `HoeStep()` (R101): started, paced by `rx.addr_done`, it copies the head of the receive queue into the trigger
register of the send-side engine, once. -/
def hoeStep (s : State) : Option State :=
  match s.rx.fifo with
  | [] => none
  | e :: _ =>
    if s.hoe.started && s.rx.addrDone then
      some ((triggerSde (addressWord e) (popRx s)).setHoe ⟨false⟩)
    else none

/-- `RveStep()` (R104): one data byte from the receive queue into the Memory Array. -/
def rveStep (s : State) : Option State :=
  match s.rx.fifo with
  | [] => none
  | e :: _ =>
    if s.rve.busy && decide (0 < s.rve.count) then
      some ((storeByte s.rve.waddr (dataByte e) (popRx s)).setRve { s.rve with
        waddr := s.rve.waddr + 1
        count := s.rve.count - 1
        busy := decide (s.rve.count - 1 ≠ 0) })
    else none

end Sys2Proof.Machine
end

