-- ==== Sys2Proof/Machine/Inbound.lean ====
section
/-!
DEFINITION. The read pipeline: the inbound bit-shifter `RXSM` (`40_read_pipeline.md`). It serves every command.
-/
namespace Sys2Proof.Machine

/-- The program position after a push (R81). -/
def rxNextIp : RxIp → RxIp
  | .entry => .addr
  | .addr => .data
  | .data => .data

/-- `RxPush()` (R81): the completed word goes to the receive queue. -/
def rxPush (s : State) : State :=
  s.setRx { s.rx with
    fifo := s.rx.fifo ++ [completedWord s.rx.isr]
    addrDone := s.rx.addrDone || decide (s.rx.ip = .addr)
    ip := rxNextIp s.rx.ip
    isr := []
    stalled := false }

/-- One bit into the inbound shift register. -/
def rxShiftIn (b : Bool) (s : State) : State := s.setRx { s.rx with isr := s.rx.isr ++ [b] }

/-- A completed word is pushed, or held while the queue is full (R81, R83). -/
def rxComplete (s : State) : State :=
  if rxFull s then s.setRx { s.rx with stalled := true } else rxPush s

/-- `RxClock(b)`, the step of `RXSM` at a `Clock` event when enabled (R81). -/
def rxClock (b : Bool) (s : State) : State :=
  if rxCnt (rxShiftIn b s) = rxTarget s.cfg.addrBits s.rx.ip then rxComplete (rxShiftIn b s) else rxShiftIn b s

/-- `RxUnstall` (R83): the pending push, as soon as there is room. -/
def rxUnstall (s : State) : Option State :=
  if s.rx.stalled && !rxFull s then some (rxPush s) else none

end Sys2Proof.Machine
end

