-- ==== Sys2Proof/Machine/Outbound.lean ====
section
/-!
DEFINITION. The write pipeline: the outbound bit-shifter `TXSM` and the send-side transfer engine `SDE`
(`41_write_pipeline.md`). It serves READ and FAST_READ.
-/
namespace Sys2Proof.Machine

/-- `TxPull()` of the head `e` of the queue (R91), which has `tx.pull` bits or the machine faults (R92). -/
def txPull (e : List Byte) (s : State) : Except Fault State :=
  if 8 * e.length = s.tx.pull.bits then
    .ok (s.setTx { s.tx with fifo := s.tx.fifo.tail, osr := unitBits e })
  else .error .pullMismatch

/-- Entering `TX_DUMMY` with 8 clock edges to pass (R91). -/
def txEnterDummy (s : State) : State := s.setTx { s.tx with ip := .dummy, dly := 8 }

/-- Entering `TX_SHIFT` (R91). -/
def txEnterShift (s : State) : State := s.setTx { s.tx with ip := .shift }

/-- One dummy clock edge (R91): the value is a draw from `{IDLE, 0, 1}`. -/
def txDummy (s : State) : So × State :=
  (Config.freeSo s.draws,
    drawn (s.setTx { s.tx with
      dly := s.tx.dly - 1
      ip := if s.tx.dly - 1 = 0 then .shift else .dummy }))

/-- One bit out of the outbound shift register (R91). -/
def txShiftOut (s : State) : So × State :=
  match s.tx.osr with
  | [] => (.idle, s)
  | b :: rest => (.bit b, s.setTx { s.tx with osr := rest })

/-- The step in `TX_ENTRY`: wait for the first unit, pull it, and go on in the configured slot (R91). -/
def txFirst (s : State) : Except Fault (So × State) :=
  match s.tx.fifo with
  | [] => .ok (.idle, s)
  | e :: _ =>
    match txPull e s with
    | .error f => .error f
    | .ok s1 =>
      match s.tx.jump with
      | .fast => .ok (txDummy (txEnterDummy s1))
      | .normal => .ok (txShiftOut (txEnterShift s1))

/-- The step in `TX_SHIFT`: pull when the shift register is empty, `IDLE` when the queue ran dry (R91). -/
def txNext (s : State) : Except Fault (So × State) :=
  match s.tx.osr, s.tx.fifo with
  | _ :: _, _ => .ok (txShiftOut s)
  | [], [] => .ok (.idle, s)
  | [], e :: _ =>
    match txPull e s with
    | .error f => .error f
    | .ok s1 => .ok (txShiftOut s1)

/-- `TxClock()`, the step of `TXSM` at a `Clock` event when enabled: the data-out value and the state after (R91). -/
def txClock (s : State) : Except Fault (So × State) :=
  match s.tx.ip with
  | .entry => txFirst s
  | .dummy => .ok (txDummy s)
  | .shift => txNext s

/-- `SdeStep()`, taken when the engine runs, has transfers left and the queue has room (R93). -/
def sdeStep (s : State) : Option State :=
  if s.sde.busy && decide (0 < s.sde.count) && !txFull s then
    let n := s.sde.unit.bytes
    let r := loadBytes n s.sde.raddr s
    some ((r.2.setTx { s.tx with fifo := s.tx.fifo ++ [r.1] }).setSde { s.sde with
      raddr := s.sde.raddr + n
      count := s.sde.count - 1
      busy := decide (s.sde.count - 1 ≠ 0) })
  else none

end Sys2Proof.Machine
end

