-- ==== Sys2Proof/Machine/Setup.lean ====
section
/-!
DEFINITION. The one-time setup, the power-on reset of this hardware (`70_reset_and_hazards.md` R170 to R176), in the
order R171 takes: fill, claim, configure, priority, launch.
-/
namespace Sys2Proof.Machine

/-- The memory fill (R172): the pattern, or nothing in a build with `PRESERVE`. -/
def setupFill (s : State) : State := if s.cfg.preserve then s else s.setMem []

/-- A failed claim: the permanent halt (R152, R173). -/
def setupHalt (s : State) : State := s.setSys { s.sys with phase := .halted }

/-- The configuration of shifters and engines (R174): both shifters enabled at their entry points in the normal
configuration, no engine started. The shifters' pins and the claimed instances (R173) are fixed by the build,
`cfg.pins` and `cfg.instances`. The pointers and counts of the engines stay as they were: unspecified (R176). -/
def setupConfigure (s : State) : State :=
  ((((s.setRx Rx.initial).setTx Tx.initial).setHoe ⟨false⟩).setSde
    { s.sde with busy := false, unit := .w32Bswap }).setRve { s.rve with busy := false }

/-- The priority directive and the launch of the command core in `IDLE` (R175). -/
def setupLaunch (s : State) : State := (s.setSys ⟨.running, true⟩).setDisp Disp.initial

/-- Setup completing while selected is premature traffic (R166, R187). -/
def setupCheckBus (s : State) : State := if s.csn then s else raiseFault .prematureTraffic s

/-- The `Setup` event before setup (R170 to R176). -/
def setupRun (claimsOk : Bool) (s : State) : State :=
  if claimsOk then setupCheckBus (setupLaunch (setupConfigure (setupFill s))) else setupHalt (setupFill s)

end Sys2Proof.Machine
end

