-- ==== Sys2Proof/Machine/Bus.lean ====
section
/-!
DEFINITION. The external events (`00_scope.md` R9) and their composition with the internal agents
(`41_write_pipeline.md` R99): an event, then every enabled internal step until none is enabled. A whole frame is its
events in order (`30_encoding.md` R60, R69).
-/
namespace Sys2Proof.Machine

/-! ### Internal steps, run to quiescence -/

/-- One enabled internal step other than a sample (R35, R99 step 3). R99: "the order of the internal steps within it
does not matter"; the order here is the model's (DESIGN CHOICE, log entry 8). -/
def internal (s : State) : Option State :=
  if running s then
    (rxUnstall s).or ((hoeStep s).or ((sdeStep s).or ((rveStep s).or (dispStep s))))
  else none

/-- At most so many internal steps. -/
def settleFor : Nat → State → State
  | 0, s => s
  | n + 1, s =>
    match internal s with
    | none => s
    | some t => settleFor n t

/-- More internal steps than can follow one another from `s`: the dispatcher passes at most 16 positions, each reset
empties the transmit queue once, and every other step pops an entry, pushes a held word or fills a free place. -/
def settleBound (s : State) : Nat := 17 * (s.cfg.txDepth + 1) + s.rx.fifo.length + 3

/-- Every enabled internal step, repeatedly, until none is enabled (R99 step 3). -/
def settle (s : State) : State := settleFor (settleBound s) s

/-! ### Events -/

/-- `SelectFall` (R9, R33); before setup it is premature traffic (R166); a halted machine is stuck (R152). -/
def selectFall (s : State) : State :=
  match s.sys.phase with
  | .preSetup => raiseFault .prematureTraffic (s.setCsn false)
  | .running => settle (s.setCsn false)
  | .halted => s

/-- `SelectRise` (R9, R33); in `IDLE` after 1 to 7 bits it raises `ShortCommand` (R154). -/
def selectRise (s : State) : State :=
  match s.sys.phase with
  | .preSetup => s.setCsn true
  | .running =>
    settle (if leavesShortCommand s then raiseFault .shortCommand (s.setCsn true) else s.setCsn true)
  | .halted => s

/-- Steps 2 to 4 of a `Clock` event: `RXSM` samples, the internal steps run, the master has its value (R99). -/
def clockRest (b : Bool) (o : So) (s : State) : State :=
  emit (.so o) (settle (if rxEnabled s then rxClock b s else s))

/-- `Clock(b)` (R99): `TXSM` first, then `RXSM`, then the internal steps. -/
def clock (b : Bool) (s : State) : Host.Outcome State Fault Refusal :=
  match s.sys.phase with
  | .preSetup => .next (emit (.so .idle) (raiseFault .prematureTraffic s))
  | .halted => .next (emit (.so .idle) s)
  | .running =>
    if txEnabled s then
      match txClock s with
      | .ok r => .next (clockRest b r.1 r.2)
      | .error f => .fault f
    else .next (clockRest b .idle s)

/-- An instant at which the dispatcher's sample is taken if enabled (R118); the internal steps follow (R99). -/
def sample (s : State) : State := if running s then settle (dispSample s) else s

/-- `Setup` (R170); once setup has run, a second one has no meaning (R177). -/
def setup (claimsOk : Bool) (s : State) : Host.Outcome State Fault Refusal :=
  match s.sys.phase with
  | .preSetup => .next (settle (setupRun claimsOk s))
  | .running => .refused .secondSetup
  | .halted => .refused .secondSetup

/-- A host read with no byte to give: the host is returned a draw (R42, R165). -/
def hostDraw (i : Nat) (s : State) : State := drawn (emit (.host i (Config.freeByte s.draws)) s)

/-- `HostRead(i)` (R53): the byte in the window, a draw beyond the array (R42); outside the window it races (R165). -/
def hostRead (i : Nat) (s : State) : State :=
  if hostWindow s then
    if i < s.cfg.memSize then emit (.host i (readMem s i)) s else hostDraw i s
  else if s.sys.phase = .halted then hostDraw i s
  else hostDraw i (raiseFault (.hostRace i) s)

/-- `HostWrite(i, v)` (R53): `mem[i] <- v` in the window, or `WriteOutOfRange` beyond the array (R42); outside the
window it races and writes nothing (R165). -/
def hostWrite (i : Nat) (v : Byte) (s : State) : State :=
  if hostWindow s then storeByte i v s
  else if s.sys.phase = .halted then s
  else raiseFault (.hostRace i) s

/-- One external event or sample (R9). -/
def doEvent (e : Event) (s : State) : Host.Outcome State Fault Refusal :=
  match e with
  | .setup ok => setup ok s
  | .selectFall => .next (selectFall s)
  | .selectRise => .next (selectRise s)
  | .clock b => clock b s
  | .sample => .next (sample s)
  | .hostRead i => .next (hostRead i s)
  | .hostWrite i v => .next (hostWrite i v s)

/-- Events one after the other, stopping at the first stop. -/
def doEvents : List Event → State → Host.Outcome State Fault Refusal
  | [], s => .next s
  | e :: es, s => andThen (doEvent e s) (doEvents es)

/-- A deselect held until the dispatcher has observed it: the filter needs two high samples (R69, R118, R183). -/
def deselect : List Event := [.selectRise, .sample, .sample]

/-- The events of one frame (R60, R69): select, one clock a bit, deselect. -/
def frameEvents (bits : List Bool) : List Event := .selectFall :: (bits.map .clock ++ deselect)

/-- One whole transaction (R69). -/
def transact (bits : List Bool) (s : State) : Host.Outcome State Fault Refusal := doEvents (frameEvents bits) s

/-- Time passes with no external event: an enabled sample is eventually taken (R118, weak fairness, D14). -/
def passTime (s : State) : State := sample s

end Sys2Proof.Machine
end

