-- ==== Sys2Proof/Machine/Commands.lean ====
section
/-!
DEFINITION. The four commands (`44_commands.md`), one definition each. A command is a whole transaction: the bus
master clocks its frame and the agents of `Inbound`, `Outbound`, `Handoff` and `Dispatcher` serve it. R140: the rules
R130 to R133 "agree with, and can be derived from, the agent-level rules"; the model runs the agents, and the
bus-visible contracts R130 to R133 are statements about these definitions.
-/
namespace Sys2Proof.Machine

/-- READ (R130): served by `dispReadArm`, `hoeStep`, `sdeStep` at 32 bits and `txClock`; ended by `exitRead`. -/
def execRead (args : ReadArgs) (s : State) : Host.Outcome State Fault Refusal :=
  transact (encode s.cfg.addrBits (.read args)) s

/-- FAST_READ (R131): served by `dispFastReadArm`, `sdeStep` at 8 bits and `txClock` with its dummy byte; ended by
`exitFast`. -/
def execFastRead (args : ReadArgs) (s : State) : Host.Outcome State Fault Refusal :=
  transact (encode s.cfg.addrBits (.fastRead args)) s

/-- WRITE (R132): served by `dispWriteArm` and `rveStep`; ended by `exitWrite`, which drains first. -/
def execWrite (args : WriteArgs) (s : State) : Host.Outcome State Fault Refusal :=
  transact (encode s.cfg.addrBits (.write args)) s

/-- UNKNOWN (R133): no pipeline armed, no response driven; ended by `exitUnknown`. -/
def execUnknown (cmd : Byte) (rest : List Bool) (s : State) : Host.Outcome State Fault Refusal :=
  transact (encode s.cfg.addrBits (.unknown cmd rest)) s

end Sys2Proof.Machine
end

