-- ==== Sys2Proof/Machine/Dispatch.lean ====
section
/-!
DEFINITION. Dispatch: one arm per constructor of `Instr`.
-/
namespace Sys2Proof.Machine

/-- The meaning of an instruction. -/
def exec (i : Instr) (s : State) : Host.Outcome State Fault Refusal :=
  match i with
  | .read args => Sys2Proof.Machine.execRead args s
  | .fastRead args => Sys2Proof.Machine.execFastRead args s
  | .write args => Sys2Proof.Machine.execWrite args s
  | .unknown cmd rest => Sys2Proof.Machine.execUnknown cmd rest s

end Sys2Proof.Machine
end

