-- ==== Sys2Proof/Machine/Step.lean ====
section
/-!
DEFINITION. One step: the next input of the environment. Commands are taken from the bus, never from the Memory
Array (`20_memory.md` R52), so what is fetched is the head of the inbox.
-/
namespace Sys2Proof.Machine

/-- One step. A frame whose command byte is complete is the instruction it decodes to; a shorter frame is no
instruction, and its events happen (R70). With nothing pending, time passes (R118, R126). -/
def step (s : State) : Host.Outcome State Fault Refusal :=
  match s.inbox with
  | [] => .next (passTime s)
  | .event e :: rest => doEvent e (s.setInbox rest)
  | .frame bits :: rest =>
    match decode s.cfg.addrBits bits with
    | .ok i => exec i (s.setInbox rest)
    | .error _ => transact bits (s.setInbox rest)

/-- The state with the frame of a table word as the environment's next input. -/
def State.withFetchWord (s : State) (nbits w : Nat) : State :=
  s.setInbox (.frame (tableFrame s.cfg.addrBits nbits w) :: s.inbox)

end Sys2Proof.Machine
end

