-- ==== Sys2Proof/Safety.lean ====
section
/-!
DEFINITION. The terms the statements use: the clean idle state of `44_commands.md` R140, the invariants of
`10_state.md` R39 with what R10 to R29 say of each field, quiescence, and the wire streams of the command contracts.
-/
namespace Sys2Proof.Machine

/-! ### Clean and quiescent states -/

/-- The control part of `CLEAN` (R140): every field R140 names but `faults`; `mem` is arbitrary. -/
abbrev CleanControl (s : State) : Prop :=
  s.sys.phase = .running ∧ s.csn = true ∧ s.rx = Rx.initial ∧ s.tx = Tx.initial ∧ s.hoe.started = false ∧
    s.sde.busy = false ∧ s.sde.unit = .w32Bswap ∧ s.rve.busy = false ∧ s.disp = Disp.initial

/-- `CLEAN` (R140): the clean idle state with no fault recorded. -/
abbrev Clean (s : State) : Prop := CleanControl s ∧ s.faults = []

/-- No internal step other than a sample is enabled (R99: "until none is enabled"). -/
abbrev Quiescent (s : State) : Prop := internal s = none

/-- The dispatcher is where it waits for the end of a transaction: it samples the select line (R118). -/
abbrev Waiting (s : State) : Prop :=
  s.disp.state = .awaitDeselect ∨ s.disp.state = .writeArm ∨ (s.disp.state = .fastReadArm ∧ s.tx.jump = .fast)

/-- The transaction's command is READ or FAST_READ. -/
abbrev Reading (s : State) : Prop := s.disp.cmd = some .read ∨ s.disp.cmd = some .fastRead

/-! ### The invariant -/

/-- The array is touched by at most one transfer direction at any instant (R39 (b)). -/
abbrev OneDirection (s : State) : Prop := ¬ (s.sde.busy = true ∧ s.rve.busy = true)

/-- In `IDLE` every engine is halted (R39 (c)). -/
abbrev IdleHalted (s : State) : Prop :=
  s.disp.state = .idle → s.sde.busy = false ∧ s.rve.busy = false ∧ s.hoe.started = false

/-- The three patches go together, and only a FAST_READ has them (R18, R20, R39 (d)). -/
abbrev PatchPaired (s : State) : Prop :=
  (s.tx.jump = .fast ↔ s.sde.unit = .w8) ∧ (s.tx.jump = .fast ↔ s.tx.pull = .p8) ∧
    (s.tx.jump = .fast → s.disp.cmd = some .fastRead)

/-- Every transmit-queue entry has the bits of one pull (R92), and the queue its capacity (R19). -/
abbrev UnitsSized (s : State) : Prop :=
  (∀ e ∈ s.tx.fifo, 8 * e.length = s.tx.pull.bits) ∧ s.tx.fifo.length ≤ s.cfg.txDepth

/-- The command class fits the dispatcher's position (R27, R29, R125). `RESET_PIPELINES` is never seen between
events: the exit step and the reset are atomic there (R122, R167). -/
abbrev CmdFits (s : State) : Prop :=
  (s.disp.state = .idle ∨ s.disp.state = .decode → s.disp.cmd = none) ∧
    (s.disp.state = .readArm → s.disp.cmd = some .read) ∧
    (s.disp.state = .fastReadArm → s.disp.cmd = some .fastRead) ∧
    (s.disp.state = .writeArm → s.disp.cmd = some .write) ∧
    (s.disp.state = .ignoreUnknown → s.disp.cmd = some .unknown) ∧
    (s.disp.state = .awaitDeselect → s.disp.cmd ≠ none ∧ (s.disp.cmd = some .fastRead → s.tx.jump = .fast)) ∧
    s.disp.state ≠ .resetPipelines

/-- The filter counts to 2 at most, and only where the dispatcher samples (R28, R118). -/
abbrev FilterOk (s : State) : Prop :=
  s.disp.hi ≤ 2 ∧
    (s.disp.state = .idle ∨ s.disp.state = .decode ∨ s.disp.state = .readArm ∨ s.disp.state = .ignoreUnknown →
      s.disp.hi = 0)

/-- An engine runs only after its arm step and only for its own command (R21 to R26, R87, R97). -/
abbrev EnginesFit (s : State) : Prop :=
  (s.hoe.started = true → s.disp.state = .awaitDeselect ∧ s.disp.cmd = some .read ∧ s.sde.busy = false) ∧
    (s.sde.busy = true → s.disp.state = .awaitDeselect ∧ Reading s ∧ 0 < s.sde.count ∧ s.sde.count ≤ readXferCount) ∧
    (s.rve.busy = true → s.disp.state = .awaitDeselect ∧ s.disp.cmd = some .write ∧ 0 < s.rve.count)

/-- How many of the transaction's entries the consumers have taken; all later ones of a WRITE are data (R87). -/
def entriesTaken (s : State) : Nat :=
  match s.disp.state with
  | .idle => 0
  | .decode => 0
  | .awaitDeselect =>
    match s.disp.cmd with
    | some .read => if s.hoe.started then 1 else 2
    | some .fastRead => 2
    | some .write => 2
    | some .unknown => 1
    | none => 1
  | .readArm => 1
  | .fastReadArm => 1
  | .writeArm => 1
  | .ignoreUnknown => 1
  | .resetPipelines => 1

/-- The width of the `k`-th entry of a transaction, counted from 0: command, address, then data (R13, R82). -/
def entryWidth (w : AddrBits) (k : Nat) : Nat := if k = 1 then w.bits else 8

/-- Queue entries have the widths of their positions, the first one at position `k`, and fit them (R13, R82). -/
def entriesShaped (w : AddrBits) : Nat → List RxEntry → Bool
  | _, [] => true
  | k, e :: es => decide (e.width = entryWidth w k) && decide (e.value < 2 ^ e.width) && entriesShaped w (k + 1) es

/-- The inbound path: what is collected, what is queued and what was taken agree (R12 to R14, R82, R87). -/
abbrev InboundFits (s : State) : Prop :=
  s.rx.en = true ∧ s.rx.fifo.length ≤ s.cfg.rxDepth ∧
    (s.rx.stalled = true → rxCnt s = rxTarget s.cfg.addrBits s.rx.ip) ∧
    (s.rx.stalled = false → rxCnt s < rxTarget s.cfg.addrBits s.rx.ip) ∧
    (s.rx.addrDone = true ↔ s.rx.ip = .data) ∧
    (s.rx.ip = .entry → entriesTaken s + s.rx.fifo.length = 0) ∧
    (s.rx.ip = .addr → entriesTaken s + s.rx.fifo.length = 1) ∧
    (s.rx.ip = .data → 2 ≤ entriesTaken s + s.rx.fifo.length) ∧
    (s.disp.state = .decode → s.rx.fifo ≠ []) ∧
    entriesShaped s.cfg.addrBits (entriesTaken s) s.rx.fifo = true

/-- The outbound path: it holds something only while a READ or FAST_READ is being served (R16, R17, R95, R98). -/
abbrev OutboundFits (s : State) : Prop :=
  s.tx.en = true ∧ txCnt s ≤ s.tx.pull.bits ∧
    (s.tx.ip = .entry → s.tx.osr = [] ∧ s.tx.dly = 0) ∧
    (s.tx.ip = .shift → s.tx.dly = 0) ∧
    (s.tx.ip = .dummy → 1 ≤ s.tx.dly ∧ s.tx.dly ≤ 8 ∧ s.tx.jump = .fast) ∧
    (s.tx.ip ≠ .entry ∨ s.tx.fifo ≠ [] → s.disp.state = .awaitDeselect ∧ Reading s)

/-- The invariants of a running machine (R39 and the field rules R10 to R29). -/
abbrev RunningInv (s : State) : Prop :=
  OneDirection s ∧ IdleHalted s ∧ PatchPaired s ∧ UnitsSized s ∧ CmdFits s ∧ FilterOk s ∧ EnginesFit s ∧
    InboundFits s ∧ OutboundFits s

/-- The model's invariant: an admitted build, the Memory Array in canonical form, `faults` a set, and, once setup has
run, R39. -/
abbrev Inv (s : State) : Prop :=
  s.cfg.wf ∧ Memory.wf s.cfg.preserve s.cfg.memSize s.mem ∧ s.faults.Nodup ∧ (s.sys.phase = .running → RunningInv s)

/-! ### The wire -/

/-- `SO` is `IDLE` at `n` clock edges. -/
def idles (n : Nat) : List Output := List.replicate n (.so .idle)

/-- Driven data bits. -/
def driven (bits : List Bool) : List Output := bits.map fun b => .so (.bit b)

/-- The value of the `j`-th bit of a data phase: bit `7 - j mod 8` of byte `j div 8`, `IDLE` once `limit` bytes have
been sent (R130, R134 (d)). -/
def dataBit (R : Nat → Byte) (limit j : Nat) : So :=
  if j / 8 < limit then .bit ((R (j / 8)).getLsbD (7 - j % 8)) else .idle

/-- The first `n` bits of a data phase. -/
def dataStream (R : Nat → Byte) (limit n : Nat) : List Output :=
  (List.range n).map fun j => .so (dataBit R limit j)

/-- `R` gives the bytes of a read from `A`: the array's inside it, any byte beyond it (R130's `R_k`). -/
def ReadsArray (s : State) (A : Nat) (R : Nat → Byte) : Prop :=
  ∀ k, A + k < s.cfg.memSize → R k = readMem s (A + k)

/-- The faults recorded by writing bytes at these offsets in ascending order (R132, R157 (e), R164). -/
def faultsOfWrites (size : Nat) : List Nat → List SpecFault → List SpecFault
  | [], fs => fs
  | a :: as, fs =>
    faultsOfWrites size as
      (if a < size then fs
       else if .writeOutOfRange a ∈ fs then fs else fs ++ [.writeOutOfRange a])

/-- `TXSM` at `n` clock edges in a row: the values it returns and the state after (R91). -/
def txClocks : Nat → State → Except Fault (List So × State)
  | 0, s => .ok ([], s)
  | n + 1, s =>
    match txClock s with
    | .error f => .error f
    | .ok (o, t) =>
      match txClocks n t with
      | .error f => .error f
      | .ok (os, u) => .ok (o :: os, u)

/-- The five agents whose steps run between events (R35, R99). -/
def agents : List (State → Option State) := [rxUnstall, hoeStep, sdeStep, rveStep, dispStep]

/-- The array after storing bytes at ascending offsets from `A`; offsets beyond the array store nothing (R47, R132). -/
def storeAll (c : Config) : Nat → List Byte → Memory → Memory
  | _, [], m => m
  | A, d :: ds, m => storeAll c (A + 1) ds (if A < c.memSize then memWrite c.preserve m A d else m)

/-- The frame offset of the first bit after the address, `C = 8 + ADDR_BITS` (`30_encoding.md`). -/
def frameC (s : State) : Nat := 8 + s.cfg.addrBits.bits

end Sys2Proof.Machine
end

