-- ==== Sys2Proof/Certificates/Slice0/Obligations.lean ====
section
/-!
DEFINITION. The statements for the provers. Each docstring names the rule it formalises; where a clause is the
model's choice, it names the log entry.
-/
open Sys2Proof Sys2Proof.Machine

/-! ### Encoding -/

/-- `30_encoding.md` R61 to R70: every well-formed instruction, with every operand at every value, is read back from
its frame. -/
def Obligations.DecodeEncodeRoundTrip : Prop :=
  ∀ (w : AddrBits) (i : Instr), i.wf w = true → decode w (encode w i) = .ok i

/-- `30_encoding.md` R60 to R70: a frame that decodes is the frame of the instruction it decodes to, which is well
formed: no bit of a frame is dropped. -/
def Obligations.DecodedFrameReencodes : Prop :=
  ∀ (w : AddrBits) (bits : List Bool) (i : Instr),
    decode w bits = .ok i → encode w i = bits ∧ i.wf w = true

/-- `95_test_vectors.md` V10 to V17: a few frames, written out from R61 to R66, and what they decode to. -/
def Obligations.SpecFramesDecode : Prop :=
  decode .a16 ([false, false, false, false, false, false, true, true] ++ List.replicate 15 false ++ [true, true]) =
      .ok (.read (.full 1 [true])) ∧
    decode .a16 ([false, false, false, false, true, false, true, true] ++ List.replicate 4 true) =
      .ok (.fastRead (.cut [true, true, true, true])) ∧
    decode .a16 ([false, false, false, false, false, false, true, false] ++ List.replicate 16 true ++
        [true, false, true, false, true, false, true, false] ++ [true]) =
      .ok (.write (.full 65535 [0xAA] [true])) ∧
    decode .a16 [true, true, false, false, false, false, false, false] = .ok (.unknown 0xC0 []) ∧
    decode .a24 ([false, false, false, false, false, false, true, true] ++ List.replicate 24 true) =
      .ok (.read (.full 16777215 []))

/-- `43_dispatcher.md` R113: the classification of every command byte, in both builds; the scaling by `CMD_SHIFT`
(R68; the spec's decision D5) changes nothing. -/
def Obligations.CommandByteSelectsClass : Prop :=
  ∀ (w : AddrBits) (c : Nat), c < 256 →
    classify w c = if c = 0x03 then .read else if c = 0x0B then .fastRead else if c = 0x02 then .write else .unknown

/-- `30_encoding.md` R67, R70: a frame is rejected exactly when its command byte is incomplete; there is no illegal
command. That fewer than eight bits are no command is the spec's decision D12. -/
def Obligations.OnlyShortFramesAreRejected : Prop :=
  ∀ (w : AddrBits) (bits : List Bool),
    (decode w bits = .error .emptyFrame ↔ bits.length = 0) ∧
    (decode w bits = .error .shortCommand ↔ 1 ≤ bits.length ∧ bits.length ≤ 7) ∧
    ((∃ i, decode w bits = .ok i) ↔ 8 ≤ bits.length)

/-- `30_encoding.md` R64, R65: a field's value is the sum of its bits, the first the most significant. -/
def Obligations.FieldValueIsMsbFirstSum : Prop :=
  ∀ bits : List Bool,
    ofBits bits = ∑ i ∈ Finset.range bits.length, (bits.getD i false).toNat * 2 ^ (bits.length - 1 - i)

/-- `30_encoding.md` R65, R70, `20_memory.md` R44: the data bytes of a WRITE and the bits that trail them are read
back from the wire. -/
def Obligations.DataBytesReadBackFromWire : Prop :=
  ∀ (data : List Byte) (trail : List Bool), trail.length < 8 → splitBytes (bytesBits data ++ trail) = (data, trail)

/-! ### The step -/

/-- The model's choice (log entry 3, DESIGN CHOICE): pending transactions stand in the inbox, and a step takes its
first. A step on a pending frame runs the instruction the frame decodes to, with the frame taken from the inbox. Of the
spec only this rests on rules: that the instruction is one whole transaction (`30_encoding.md` R60) and is never fetched
from the array (`20_memory.md` R52). -/
def Obligations.StepRunsDecodedInstruction : Prop :=
  ∀ (s : State) (bits : List Bool) (rest : List Input) (i : Instr),
    s.inbox = .frame bits :: rest → decode s.cfg.addrBits bits = .ok i → step s = exec i (s.setInbox rest)

/-- `30_encoding.md` R60, R69: whatever its length, a frame is its events: select, one clock a bit, deselect. The sample
schedule is the model's choice (log entry 9, DESIGN CHOICE; D14 leaves the instants open): no sample while selected, two
after the select rises; that a frame waits in the inbox is log entry 3 (DESIGN CHOICE). -/
def Obligations.FrameStepIsItsEvents : Prop :=
  ∀ (s : State) (bits : List Bool) (rest : List Input),
    s.inbox = .frame bits :: rest →
      step s = doEvents (.selectFall :: (bits.map .clock ++ [.selectRise, .sample, .sample])) (s.setInbox rest)

/-- `41_write_pipeline.md` R99: the data-out value of a clock event does not depend on the data-in bit of the same
event (the spec's decision D2). -/
def Obligations.DataOutIgnoresSameEdgeDataIn : Prop :=
  ∀ (s t u : State) (b c : Bool), clock b s = .next t → clock c s = .next u → t.trace = u.trace

/-! ### The commands -/

/-- `44_commands.md` R130: READ. `IDLE` for the command and the address, then the array's bytes from the address
on, each bit 7 first, free bytes beyond the array and `IDLE` after `4 * READ_XFER_COUNT` bytes. The whole frame: only
the outputs, the send-side engine's pointer and count, and the draw counter differ afterwards. (Free bytes beyond the
array and the limit are the spec's decisions D6 and D16, which R130 itself states.) -/
def Obligations.ReadTransaction : Prop :=
  ∀ (s : State) (A : Nat) (clocks : List Bool),
    CleanControl s → s.cfg.wf → A < 2 ^ s.cfg.addrBits.bits →
      ∃ (R : Nat → Byte) (e : Sde) (d : Nat),
        ReadsArray s A R ∧ e.busy = false ∧ e.unit = .w32Bswap ∧
          exec (.read (.full A clocks)) s =
            .next (((s.setSde e).setDraws d).setTrace
              (s.trace ++ idles (frameC s) ++ dataStream R (4 * readXferCount) clocks.length))

/-- `44_commands.md` R131: FAST_READ. As READ, after one dummy byte of eight free values; `IDLE` after
`READ_XFER_COUNT` bytes. (The free dummy values are the spec's decision D7, which R131 itself states.) -/
def Obligations.FastReadTransaction : Prop :=
  ∀ (s : State) (A : Nat) (clocks : List Bool),
    CleanControl s → s.cfg.wf → A < 2 ^ s.cfg.addrBits.bits →
      ∃ (R : Nat → Byte) (dummy : List So) (e : Sde) (d : Nat),
        ReadsArray s A R ∧ dummy.length = min 8 clocks.length ∧ e.busy = false ∧ e.unit = .w32Bswap ∧
          exec (.fastRead (.full A clocks)) s =
            .next (((s.setSde e).setDraws d).setTrace
              (s.trace ++ idles (frameC s) ++ dummy.map .so ++
                dataStream R readXferCount (clocks.length - 8)))

/-- `44_commands.md` R132: WRITE. Every complete byte is stored, in ascending order, at the offsets from the address
on; beyond the array `WriteOutOfRange` is recorded and nothing stored; trailing bits are discarded; `SO` is `IDLE`
throughout. The whole frame: every byte outside the stored ones reads as before, and only the array, the receive-side
engine's pointer and count, `faults` and the outputs differ. (`WriteOutOfRange` is the spec's decision D6, which R132
itself states; that the receive-side count is not exhausted is the premise of decision D16.) -/
def Obligations.WriteTransaction : Prop :=
  ∀ (s : State) (A : Nat) (data : List Byte) (trail : List Bool),
    CleanControl s → s.cfg.wf → A < 2 ^ s.cfg.addrBits.bits → trail.length < 8 →
    data.length ≤ s.cfg.rveXferCount →
      ∃ m : Memory,
        (∀ k (h : k < data.length), A + k < s.cfg.memSize → memRead s.cfg.preserve m (A + k) = data[k]) ∧
        (∀ a, ¬ (A ≤ a ∧ a < A + data.length ∧ a < s.cfg.memSize) → memRead s.cfg.preserve m a = readMem s a) ∧
        exec (.write (.full A data trail)) s =
          .next ((((s.setMem m).setRve ⟨false, A + data.length, s.cfg.rveXferCount - data.length⟩).setFaults
              (faultsOfWrites s.cfg.memSize ((List.range data.length).map (A + ·)) s.faults)).setTrace
            (s.trace ++ idles (frameC s + 8 * data.length + trail.length)))

/-- `44_commands.md` R133: UNKNOWN. `SO` is `IDLE` for the whole frame and nothing else changes. -/
def Obligations.UnknownTransaction : Prop :=
  ∀ (s : State) (cmd : Byte) (rest : List Bool),
    CleanControl s → s.cfg.wf → unknownCmdOk cmd = true →
      exec (.unknown cmd rest) s = .next (s.setTrace (s.trace ++ idles (8 + rest.length)))

/-- `44_commands.md` R136: a frame that ends in the address phase changes nothing, for every command; every output is
`IDLE`, no fault is recorded, and the machine is as clean as before. -/
def Obligations.CutAddressTransaction : Prop :=
  ∀ (s : State) (got : List Bool),
    CleanControl s → s.cfg.wf → got.length < s.cfg.addrBits.bits →
      exec (.read (.cut got)) s = .next (s.setTrace (s.trace ++ idles (8 + got.length))) ∧
      exec (.fastRead (.cut got)) s = .next (s.setTrace (s.trace ++ idles (8 + got.length))) ∧
      exec (.write (.cut got)) s = .next (s.setTrace (s.trace ++ idles (8 + got.length))) ∧
      ∀ cmd, unknownCmdOk cmd = true →
        exec (.unknown cmd got) s = .next (s.setTrace (s.trace ++ idles (8 + got.length)))

/-- `44_commands.md` R137: after every command, of any length, the machine is clean again; only a WRITE changes the
array or records a fault. -/
def Obligations.EveryCommandReturnsToClean : Prop :=
  ∀ (s : State) (i : Instr), CleanControl s → s.cfg.wf → i.wf s.cfg.addrBits = true →
    ∃ t, exec i s = .next t ∧ CleanControl t ∧ t.cfg = s.cfg ∧ t.inbox = s.inbox ∧
      ((∀ a, i ≠ .write a) → t.mem = s.mem ∧ t.faults = s.faults)

/-- `44_commands.md` R139, round trip: `WRITE(A, D)` followed by `READ(A, len(D))` yields `D`. -/
def Obligations.WriteThenReadYieldsData : Prop :=
  ∀ (s : State) (A : Nat) (data : List Byte) (clocks : List Bool),
    CleanControl s → s.cfg.wf → A < 2 ^ s.cfg.addrBits.bits → A + data.length ≤ s.cfg.memSize →
    data.length ≤ s.cfg.rveXferCount → data.length ≤ 4 * readXferCount → clocks.length = 8 * data.length →
      ∃ u t, exec (.write (.full A data [])) s = .next u ∧ exec (.read (.full A clocks)) u = .next t ∧
        t.trace = u.trace ++ idles (frameC s) ++ driven (bytesBits data) ∧ t.mem = u.mem ∧ t.faults = s.faults

/-- `44_commands.md` R139, fast-read equivalence: after its dummy byte `FAST_READ(A, n)` yields the bits of
`READ(A, n)`, for every `n` bytes inside the array. -/
def Obligations.FastReadYieldsWhatReadYields : Prop :=
  ∀ (s : State) (A n : Nat) (clocks fastClocks : List Bool),
    CleanControl s → s.cfg.wf → A < 2 ^ s.cfg.addrBits.bits → A + n ≤ s.cfg.memSize → n ≤ readXferCount →
    clocks.length = 8 * n → fastClocks.length = 8 + 8 * n →
      ∃ (t u : State) (data : List Bool) (dummy : List So),
        exec (.read (.full A clocks)) s = .next t ∧ exec (.fastRead (.full A fastClocks)) s = .next u ∧
        data.length = 8 * n ∧ dummy.length = 8 ∧
        t.trace = s.trace ++ idles (frameC s) ++ driven data ∧
        u.trace = s.trace ++ idles (frameC s) ++ dummy.map .so ++ driven data ∧ t.mem = u.mem

/-- `44_commands.md` R139, non-interference: an UNKNOWN command before any instruction changes neither the array nor
what the instruction does and returns. -/
def Obligations.UnknownDoesNotInterfere : Prop :=
  ∀ (s t : State) (cmd : Byte) (rest : List Bool) (i : Instr),
    CleanControl s → s.cfg.wf → unknownCmdOk cmd = true → exec i s = .next t →
      ∃ (u v : State) (outs : List Output),
        exec (.unknown cmd rest) s = .next u ∧ u.mem = s.mem ∧ exec i u = .next v ∧
        t.trace = s.trace ++ outs ∧ v.trace = u.trace ++ outs ∧ v = t.setTrace v.trace

/-- `44_commands.md` R139, address-width parameterization: with 24-bit addressing and an untouched array that reaches
that far, READ at `0x123456` returns `56 57 58`. -/
def Obligations.WideAddressReadsPattern : Prop :=
  ∀ (s : State) (clocks : List Bool),
    CleanControl s → s.cfg.wf → s.cfg.addrBits = .a24 → s.cfg.preserve = false → s.mem = [] →
    0x123458 < s.cfg.memSize → clocks.length = 24 →
      ∃ t, exec (.read (.full 0x123456 clocks)) s = .next t ∧
        t.trace = s.trace ++ idles 32 ++ driven (bytesBits [0x56, 0x57, 0x58])

/-- `30_encoding.md` R70, `44_commands.md` R137: a select with no clock changes nothing. -/
def Obligations.EmptyFrameChangesNothing : Prop :=
  ∀ s : State, CleanControl s → transact [] s = .next s

/-- `60_exceptions.md` R154, vector V90: 1 to 7 bits and a deselect record `ShortCommand`, and the bits stay in the
inbound shift register; no pipeline reset runs (the spec's decision D12). -/
def Obligations.ShortCommandIsRecorded : Prop :=
  ∀ (s : State) (bits : List Bool), CleanControl s → 1 ≤ bits.length → bits.length ≤ 7 →
    transact bits s =
      .next (raiseFault .shortCommand
        ((s.setRx { s.rx with isr := bits }).setTrace (s.trace ++ idles bits.length)))

/-! ### Select, glitch filter, liveness -/

/-- `43_dispatcher.md` R118: where the dispatcher waits, a low sample clears the count, a first high sample counts to
one and does nothing else, and the second high sample in a row is the deselect: the machine is clean again, with the
array, the faults and the outputs as they were. (When samples are taken is the spec's decision D14.) -/
def Obligations.FilterNeedsTwoHighSamples : Prop :=
  ∀ s : State, Inv s → s.sys.phase = .running → Quiescent s → Waiting s →
    (s.csn = false → sample s = s.setDisp { s.disp with hi := 0 }) ∧
    (s.csn = true → s.disp.hi = 0 → sample s = s.setDisp { s.disp with hi := 1 }) ∧
    (s.csn = true → s.disp.hi = 1 →
      CleanControl (sample s) ∧ (sample s).mem = s.mem ∧ (sample s).faults = s.faults ∧
        (sample s).trace = s.trace ∧ (sample s).cfg = s.cfg ∧ (sample s).rve = { s.rve with busy := false })

/-- `43_dispatcher.md` R118, decision D14: between the events of a selected transaction any number of samples, at any
instants, makes no difference: the frame of log entry 9 stands for every schedule of samples while selected. -/
def Obligations.SampleScheduleIsIrrelevant : Prop :=
  ∀ (s : State) (es : List Event), CleanControl s → (∀ e ∈ es, e = .sample ∨ ∃ b, e = .clock b) →
    doEvents (.selectFall :: es) s = doEvents (.selectFall :: es.filter fun e => decide (e ≠ .sample)) s

/-- `44_commands.md` R138: a high pulse of the select line with at most one sample inside it, and a low sample after
it, leaves the whole machine as it was (with the spec's decisions D14 and D24). -/
def Obligations.GlitchIsInvisible : Prop :=
  ∀ s : State, s.sys.phase = .running → s.csn = false → s.disp.hi = 0 → Quiescent s → Waiting s →
    doEvents [.selectRise, .sample, .selectFall, .sample] s = .next s ∧
    doEvents [.selectRise, .selectFall] s = .next s

/-- `70_reset_and_hazards.md` R185, with R84 and R98: clock edges while deselected change nothing but the record of
outputs, which shows `IDLE` for each, however many there are (the spec's decision D24). -/
def Obligations.DeselectedClocksAreIgnored : Prop :=
  ∀ (s : State) (bits : List Bool), s.sys.phase = .running → s.csn = true → Quiescent s →
    doEvents (bits.map .clock) s = .next (s.setTrace (s.trace ++ idles bits.length))

/-- `43_dispatcher.md` R118, `70_reset_and_hazards.md` R183: while the select line is high and no event is pending,
two steps bring the dispatcher back to `IDLE`, from wherever it was waiting. That an idle step takes the sample is
the model's form of weak fairness (log entry 9). -/
def Obligations.DeselectReachesIdle : Prop :=
  ∀ s : State, Inv s → s.sys.phase = .running → Quiescent s → s.csn = true → s.inbox = [] →
    ∃ t u, step s = .next t ∧ step t = .next u ∧ u.disp.state = .idle ∧ u.mem = s.mem

/-- `43_dispatcher.md` R126: a transaction that never deselects stalls the dispatcher for ever, and is no fault. That a
step with nothing pending takes one sample is the model's choice (log entry 9, DESIGN CHOICE), as is the inbox (log
entry 3). -/
def Obligations.SelectedTransactionNeverEnds : Prop :=
  ∀ s : State, s.csn = false → s.disp.hi = 0 → Quiescent s → s.inbox = [] → step s = .next s

/-! ### The agents -/

/-- `40_read_pipeline.md` R81, R82: as many bits as the word being collected has, with room in the queue, push one
entry of that width and value, move the shifter to its next position and empty the shift register (one address
entry of `ADDR_BITS` bits is the spec's decision D9). -/
def Obligations.InboundShifterPushesWord : Prop :=
  ∀ (s : State) (bits : List Bool), s.rx.isr = [] → rxFull s = false →
    bits.length = rxTarget s.cfg.addrBits s.rx.ip →
      bits.foldl (fun t b => rxClock b t) s =
        s.setRx ⟨s.rx.en, rxNextIp s.rx.ip, [], s.rx.fifo ++ [⟨bits.length, ofBits bits⟩], false,
          s.rx.addrDone || decide (s.rx.ip = .addr)⟩

/-- `40_read_pipeline.md` R83: a word completed while the queue is full is held and the shifter stalls; while it is
stalled it takes no clock step, and the pending push is made as soon as there is room (the spec's decision D15). -/
def Obligations.FullQueueStallsInboundShifter : Prop :=
  ∀ (s : State) (b : Bool), rxFull s = true → rxCnt s + 1 = rxTarget s.cfg.addrBits s.rx.ip →
    (rxClock b s).rx.stalled = true ∧ (rxClock b s).rx.fifo = s.rx.fifo ∧ (rxClock b s).rx.isr = s.rx.isr ++ [b] ∧
    rxEnabled (rxClock b s) = false ∧ rxUnstall (rxClock b s) = none ∧
    (s.rx.fifo.length = s.cfg.rxDepth → 1 ≤ s.cfg.rxDepth →
      ∃ t, rxUnstall (popRx (rxClock b s)) = some t ∧
        t.rx.fifo = s.rx.fifo.tail ++ [⟨s.rx.isr.length + 1, ofBits (s.rx.isr ++ [b])⟩] ∧
        t.rx.stalled = false ∧ t.rx.isr = [])

/-- `41_write_pipeline.md` R91: in the normal configuration the first data bit comes at the very edge at which the
first unit is found, and a unit leaves byte by byte, bit 7 first. -/
def Obligations.NormalUnitLeavesMsbFirst : Prop :=
  ∀ (s : State) (e : List Byte) (es : List (List Byte)),
    s.tx.ip = .entry → s.tx.jump = .normal → s.tx.pull = .p32 → s.tx.fifo = e :: es → e.length = 4 →
      txClocks 32 s =
        .ok ((bytesBits e).map .bit, s.setTx { s.tx with ip := .shift, osr := [], fifo := es })

/-- `41_write_pipeline.md` R91: in the fast configuration eight free values precede the first data bit (the spec's
decisions D7 and D22). -/
def Obligations.FastUnitLeavesAfterDummyByte : Prop :=
  ∀ (s : State) (b : Byte) (es : List (List Byte)),
    s.tx.ip = .entry → s.tx.jump = .fast → s.tx.pull = .p8 → s.tx.fifo = [b] :: es →
      ∃ dummy : List So, dummy.length = 8 ∧
        txClocks 16 s =
          .ok (dummy ++ (byteBits b).map .bit,
            (s.setTx { s.tx with ip := .shift, dly := 0, osr := [], fifo := es }).setDraws (s.draws + 8))

/-- `41_write_pipeline.md` R93, R94: the send-side engine, when it runs with transfers left and room, queues the unit
at its pointer in ascending order, whatever the alignment (R45, the spec's decision D27), and advances; otherwise it
takes no step. Bytes of the unit beyond the array (`20_memory.md` R42, R46, the spec's decision D6) are draws, one each;
the pointer does not wrap, no fault is recorded, and nothing else changes. -/
def Obligations.SendEngineQueuesUnit : Prop :=
  ∀ s : State,
    (s.sde.busy = true → 0 < s.sde.count → txFull s = false →
      ∃ unit : List Byte,
        unit.length = s.sde.unit.bytes ∧
        (∀ i < s.sde.unit.bytes, s.sde.raddr + i < s.cfg.memSize → unit[i]? = some (readMem s (s.sde.raddr + i))) ∧
        sdeStep s = some (((s.setTx { s.tx with fifo := s.tx.fifo ++ [unit] }).setSde
          ⟨decide (s.sde.count - 1 ≠ 0), s.sde.raddr + s.sde.unit.bytes, s.sde.count - 1, s.sde.unit⟩).setDraws
            (s.draws + (s.sde.unit.bytes - (s.cfg.memSize - s.sde.raddr))))) ∧
    (sdeStep s = none ↔ s.sde.busy = false ∨ s.sde.count = 0 ∨ txFull s = true)

/-- `42_address_handoff.md` R101: the hand-off engine, started and paced, moves the head of the receive queue into the
trigger register of the send-side engine, once; otherwise it takes no step (the pacing is the spec's decision D28). -/
def Obligations.HandOffStartsSendEngine : Prop :=
  ∀ s : State,
    (∀ e es, s.rx.fifo = e :: es → s.hoe.started = true → s.rx.addrDone = true →
      hoeStep s = some (((s.setRx { s.rx with fifo := es }).setSde
        ⟨true, e.value, 65536, s.sde.unit⟩).setHoe ⟨false⟩)) ∧
    (hoeStep s = none ↔ s.hoe.started = false ∨ s.rx.addrDone = false ∨ s.rx.fifo = [])

/-- `42_address_handoff.md` R104: one transfer of the receive-side engine: inside the array it stores the byte and
every other byte reads as before; beyond it, it records `WriteOutOfRange` and stores nothing; either way it advances
without wrapping (the spec's decisions D6 and D26). -/
def Obligations.ReceiveEngineStoresByte : Prop :=
  ∀ (s : State) (v : Nat) (es : List RxEntry), s.rx.fifo = ⟨8, v⟩ :: es → s.rve.busy = true → 0 < s.rve.count →
    ∃ t, rveStep s = some t ∧ t.rx = { s.rx with fifo := es } ∧
      t.rve = ⟨decide (s.rve.count - 1 ≠ 0), s.rve.waddr + 1, s.rve.count - 1⟩ ∧
      t = (((s.setRx t.rx).setRve t.rve).setMem t.mem).setFaults t.faults ∧
      (if s.rve.waddr < s.cfg.memSize then
        readMem t s.rve.waddr = BitVec.ofNat 8 v ∧ (∀ a, a ≠ s.rve.waddr → readMem t a = readMem s a) ∧
          t.faults = s.faults
      else t.mem = s.mem ∧ t.faults = (raiseFault (.writeOutOfRange s.rve.waddr) s).faults)

/-- `41_write_pipeline.md` R99: between events the order of the internal steps does not matter. Until the deselect is
observed, two enabled steps of different agents can be taken in either order, to the same state. The sample that makes
`disp.hi = 2` in a quiescent state leaves only the dispatcher enabled (`40_read_pipeline.md` R87, `43_dispatcher.md`
R118): its exit step, then its reset step, one after the other, and then no step is enabled. -/
def Obligations.InternalStepOrderIsIrrelevant : Prop :=
  (∀ (s : State) (a b : State → Option State) (s1 s2 : State),
    Inv s → s.sys.phase = .running → s.disp.hi < 2 → a ∈ agents → b ∈ agents → a s = some s1 → b s = some s2 →
      s1 = s2 ∨ ∃ t, b s1 = some t ∧ a s2 = some t) ∧
  ∀ s : State, Inv s → s.sys.phase = .running → Quiescent s → Waiting s → s.csn = true → s.disp.hi = 1 →
    ∃ t u, dispStep (dispSample s) = some t ∧ dispStep t = some u ∧ Quiescent u ∧
      ∀ a ∈ agents, a = dispStep ∨ a (dispSample s) = none ∧ a t = none

/-- `41_write_pipeline.md` R99: a machine in which no internal step is enabled is again so after every step. -/
def Obligations.StepKeepsQuiescence : Prop :=
  ∀ s t : State, Quiescent s → step s = .next t → Quiescent t

/-! ### The dispatcher -/

/-- `43_dispatcher.md` R112: the decode step pops the command entry, records its class and goes to its arm. -/
def Obligations.DecodeGoesToArm : Prop :=
  ∀ (s : State) (c : Nat) (es : List RxEntry), s.disp.state = .decode → s.rx.fifo = ⟨8, c⟩ :: es →
    dispStep s = some ((s.setRx { s.rx with fifo := es }).setDisp
      ⟨match classify s.cfg.addrBits c with
        | .read => .readArm
        | .fastRead => .fastReadArm
        | .write => .writeArm
        | .unknown => .ignoreUnknown,
      s.disp.hi, some (classify s.cfg.addrBits c)⟩)

/-- `43_dispatcher.md` R114: `READ_ARM` starts the hand-off engine and goes to `AWAIT_DESELECT`. -/
def Obligations.ReadArmStartsHandOff : Prop :=
  ∀ s : State, s.disp.state = .readArm →
    dispStep s = some ((s.setHoe ⟨true⟩).setDisp { s.disp with state := .awaitDeselect })

/-- `43_dispatcher.md` R115: `IGNORE_UNKNOWN` goes to `AWAIT_DESELECT` and writes nothing else. -/
def Obligations.IgnoreUnknownWritesNothing : Prop :=
  ∀ s : State, s.disp.state = .ignoreUnknown →
    dispStep s = some (s.setDisp { s.disp with state := .awaitDeselect })

/-- `43_dispatcher.md` R116, R117, R123: the arm states of FAST_READ and WRITE. On entering `FAST_READ_ARM` the patch
comes first, whatever is queued. Until the deselect is observed, the address entry, once queued, is popped and written
to the engine's trigger register, and with an empty queue the dispatcher has no step. An observed deselect abandons the
wait, whatever is queued, and the command's exit step runs (the spec's decision D10). -/
def Obligations.AddressWaitTriggersEngine : Prop :=
  ∀ s : State,
    (s.disp.state = .fastReadArm → s.tx.jump = .normal →
      dispStep s = some ((s.setTx { s.tx with jump := .fast, pull := .p8 }).setSde { s.sde with unit := .w8 })) ∧
    (∀ e es, s.rx.fifo = e :: es → s.disp.state = .fastReadArm → s.tx.jump = .fast → s.disp.hi < 2 →
      dispStep s = some (((s.setRx { s.rx with fifo := es }).setSde ⟨true, e.value, 65536, s.sde.unit⟩).setDisp
        { s.disp with state := .awaitDeselect })) ∧
    (∀ e es, s.rx.fifo = e :: es → s.disp.state = .writeArm → s.disp.hi < 2 →
      dispStep s = some (((s.setRx { s.rx with fifo := es }).setRve ⟨true, e.value, s.cfg.rveXferCount⟩).setDisp
        { s.disp with state := .awaitDeselect })) ∧
    (s.rx.fifo = [] → s.disp.hi < 2 → (s.disp.state = .writeArm ∨ s.disp.state = .fastReadArm ∧ s.tx.jump = .fast) →
      dispStep s = none) ∧
    (s.disp.state = .fastReadArm → s.tx.jump = .fast → s.disp.hi = 2 → s.disp.cmd = some .fastRead →
      dispStep s = some (((s.setSde { s.sde with busy := false, unit := .w32Bswap }).setTx
        { s.tx with jump := .normal, pull := .p32 }).setDisp { s.disp with state := .resetPipelines })) ∧
    (s.disp.state = .writeArm → s.disp.hi = 2 → s.disp.cmd = some .write → s.rve.busy = false →
      dispStep s = some (s.setDisp { s.disp with state := .resetPipelines }))

/-- `43_dispatcher.md` R119, `42_address_handoff.md` R105, vector V82: once the deselect of a WRITE is observed, every
byte still queued is stored in order before the engine is aborted and the pipelines reset. -/
def Obligations.DrainStoresEveryQueuedByte : Prop :=
  ∀ s : State, Inv s → s.sys.phase = .running → s.csn = true → s.disp.state = .awaitDeselect →
    s.disp.cmd = some .write → s.disp.hi = 2 → s.rve.busy = true → s.rx.stalled = false →
    s.rx.fifo.length ≤ s.rve.count →
      CleanControl (settle s) ∧
        (settle s).mem = storeAll s.cfg s.rve.waddr (s.rx.fifo.map fun e => BitVec.ofNat 8 e.value) s.mem ∧
        (settle s).faults = faultsOfWrites s.cfg.memSize
          ((List.range s.rx.fifo.length).map (s.rve.waddr + ·)) s.faults ∧
        (settle s).trace = s.trace

/-- `43_dispatcher.md` R120: the exit of a READ aborts the send-side engine and cancels a hand-off that never fired
(the cancel is the spec's decision D11). -/
def Obligations.ReadExitAbortsAndCancels : Prop :=
  ∀ s : State, s.disp.state = .awaitDeselect → s.disp.hi = 2 → s.disp.cmd = some .read →
    dispStep s = some (((s.setSde { s.sde with busy := false }).setHoe ⟨false⟩).setDisp
      { s.disp with state := .resetPipelines })

/-- `43_dispatcher.md` R121: the exit of a FAST_READ aborts the send-side engine and reverts both patches, from
`AWAIT_DESELECT` and from the address wait alike (the abort is the spec's decision D11). -/
def Obligations.FastReadExitRevertsPatches : Prop :=
  ∀ s : State, (s.disp.state = .awaitDeselect ∨ s.disp.state = .fastReadArm ∧ s.tx.jump = .fast) → s.disp.hi = 2 →
    s.disp.cmd = some .fastRead →
      dispStep s = some (((s.setSde { s.sde with busy := false, unit := .w32Bswap }).setTx
        { s.tx with jump := .normal, pull := .p32 }).setDisp { s.disp with state := .resetPipelines })

/-- `43_dispatcher.md` R122: the pipeline reset leaves both shifters enabled at their entry with empty queues and
registers and the dispatcher in `IDLE`, and touches nothing else. -/
def Obligations.PipelineResetEmptiesBothPaths : Prop :=
  ∀ s : State, s.disp.state = .resetPipelines →
    dispStep s = some (((s.setRx ⟨true, .entry, [], [], false, false⟩).setTx
      ⟨true, .entry, 0, [], s.tx.jump, [], s.tx.pull⟩).setDisp ⟨.idle, 0, none⟩)

/-! ### Memory, host, setup -/

/-- `20_memory.md` R40, R48, `10_state.md` R30: on the bus only the data phase of a WRITE changes the array: from a
quiescent state every event but a host write and setup that changes it is a clock edge of a WRITE being served. -/
def Obligations.OnlyWriteDataChangesMemory : Prop :=
  ∀ (s t : State) (e : Event), Inv s → s.sys.phase = .running → Quiescent s → doEvent e s = .next t →
    (∀ i v, e ≠ .hostWrite i v) → t.mem ≠ s.mem →
      (∃ b, e = .clock b) ∧ s.disp.cmd = some .write ∧ s.disp.state = .awaitDeselect ∧ s.rve.busy = true ∧
        s.csn = false ∧ ∀ a, a ≠ s.rve.waddr → readMem t a = readMem s a

/-- `20_memory.md` R53: in the quiescent window the host reads the array's byte and changes nothing, and a host write
changes that byte and no other (the spec's decision D18). Beyond the array R53 gives the access no meaning; there the
model follows R42 (log entry 11, DEDUCED): a read returns some byte, a write records `WriteOutOfRange` and stores
nothing. -/
def Obligations.HostAccessInWindow : Prop :=
  ∀ (s : State) (i : Nat) (v : Byte),
    s.sys.phase = .running → s.disp.state = .idle → s.csn = true → s.rx.isr = [] →
      (i < s.cfg.memSize →
        doEvent (.hostRead i) s = .next (s.setTrace (s.trace ++ [.host i (readMem s i)])) ∧
        ∃ m, doEvent (.hostWrite i v) s = .next (s.setMem m) ∧ memRead s.cfg.preserve m i = v ∧
          ∀ a, a ≠ i → memRead s.cfg.preserve m a = readMem s a) ∧
      (s.cfg.memSize ≤ i →
        doEvent (.hostWrite i v) s = .next (raiseFault (.writeOutOfRange i) s) ∧
        ∃ (x : Byte) (d : Nat),
          doEvent (.hostRead i) s = .next ((s.setTrace (s.trace ++ [.host i x])).setDraws d))

/-- `60_exceptions.md` R165: a host access outside the window of a running machine records `HostRace`; a write stores
nothing and a read returns some byte (the spec's decision D18). So does, before setup, every host access: the model's
reading of R188 (log entry 12, DEDUCED). -/
def Obligations.HostAccessOutsideWindowRaces : Prop :=
  ∀ (s : State) (i : Nat) (v : Byte),
    (s.sys.phase = .preSetup ∨ s.sys.phase = .running ∧ (s.disp.state ≠ .idle ∨ s.csn = false ∨ s.rx.isr ≠ [])) →
      doEvent (.hostWrite i v) s = .next (raiseFault (.hostRace i) s) ∧
      ∃ (x : Byte) (d : Nat), doEvent (.hostRead i) s =
        .next (((raiseFault (.hostRace i) s).setTrace (s.trace ++ [.host i x])).setDraws d)

/-- `70_reset_and_hazards.md` R172 to R176: a successful setup on a deselected bus reaches the clean state, with the
pattern in the array unless the build preserves it (the spec's decision D17). That the engine registers R176 leaves
unspecified keep their values is the model's choice (log entry 4). -/
def Obligations.SetupReachesCleanState : Prop :=
  ∀ s : State, s.sys.phase = .preSetup → s.csn = true →
    ∃ t, doEvent (.setup true) s = .next t ∧ CleanControl t ∧ t.sys.prio = true ∧ t.faults = s.faults ∧
      (s.cfg.preserve = false → ∀ a, readMem t a = BitVec.ofNat 8 (a % 256)) ∧
      (s.cfg.preserve = true → t.mem = s.mem) ∧
      t.sde.raddr = s.sde.raddr ∧ t.sde.count = s.sde.count ∧ t.rve.waddr = s.rve.waddr ∧ t.rve.count = s.rve.count

/-- `60_exceptions.md` R152: a failed claim halts; a halted machine stays as it is at every event of the bus and the
host: every clock edge returns `IDLE`, and nothing but the record of outputs and the draw counter moves (the spec's
decision D20). -/
def Obligations.FailedClaimHaltsForEver : Prop :=
  (∀ s : State, s.sys.phase = .preSetup →
    ∃ t, doEvent (.setup false) s = .next t ∧ t.sys.phase = .halted) ∧
  ∀ (s : State) (e : Event), s.sys.phase = .halted → (∀ ok, e ≠ .setup ok) →
    ∃ (outs : List Output) (d : Nat),
      doEvent e s = .next ((s.setTrace (s.trace ++ outs)).setDraws d) ∧ (∀ b, e = .clock b → outs = [.so .idle])

/-- `60_exceptions.md` R166: a falling select or a clock edge before setup, and setup completing while selected,
record `PrematureTraffic` (the spec's decision D21). -/
def Obligations.TrafficBeforeSetupIsRecorded : Prop :=
  ∀ (s t : State) (e : Event), s.sys.phase = .preSetup → doEvent e s = .next t →
    (e = .selectFall ∨ (∃ b, e = .clock b) ∨ (e = .setup true ∧ s.csn = false)) →
      .prematureTraffic ∈ t.faults

/-- `70_reset_and_hazards.md` R177: a second setup has no meaning; it is refused by name (log entry 13). -/
def Obligations.SecondSetupIsRefused : Prop :=
  ∀ (s : State) (ok : Bool), s.sys.phase ≠ .preSetup → doEvent (.setup ok) s = .refused .secondSetup

/-- `70_reset_and_hazards.md` R176: what reset leaves: the clean state, no fault, the priority directive installed,
the pattern in every byte of the array. That the reset state is the state after setup is log entry 1. -/
def Obligations.ResetIsCleanWithPattern : Prop :=
  Clean State.reset ∧ State.reset.sys.prio = true ∧ ∀ a, readMem State.reset a = BitVec.ofNat 8 (a % 256)

/-! ### Invariants -/

/-- `10_state.md` R39: the invariants hold at reset. -/
def Obligations.ResetHasInvariant : Prop := Inv State.reset

/-- `10_state.md` R39, with R10 to R29: every step keeps the invariants, from every state that has them. -/
def Obligations.StepKeepsInvariant : Prop :=
  ∀ s t : State, Inv s → step s = .next t → Inv t

/-- `41_write_pipeline.md` R92: with the invariants no step meets a pull of the wrong size; no step faults. -/
def Obligations.InvariantNeverFaults : Prop :=
  ∀ (s : State) (r : Fault), Inv s → step s ≠ .fault r

/-- `60_exceptions.md` R163, R167: `faults` only grows, and `EarlySelect` is never raised. -/
def Obligations.FaultsOnlyGrow : Prop :=
  ∀ s t : State, step s = .next t → s.faults <+: t.faults ∧ (.earlySelect ∈ t.faults → .earlySelect ∈ s.faults)

/-- `00_scope.md` R6, `10_state.md` R36, `70_reset_and_hazards.md` R177: the build never changes, a running machine
keeps running, a halted one stays halted, and the priority directive is never cleared. -/
def Obligations.BuildAndPhaseAreStable : Prop :=
  ∀ s t : State, step s = .next t →
    t.cfg = s.cfg ∧ (s.sys.phase = .running → t.sys = s.sys) ∧ (s.sys.phase = .halted → t.sys = s.sys) ∧
      (s.sys.prio = true → t.sys.prio = true)

/-- `10_state.md` R39 (c), `43_dispatcher.md` R122: whenever a step leaves the dispatcher in `IDLE`, every engine is
halted and both patches are reverted, both queues are drained and the outbound path is empty. The inbound shift
register is not: it may hold the bits of an incomplete command byte, fewer than eight (`60_exceptions.md` R154). -/
def Obligations.IdleIsQuietAndUnpatched : Prop :=
  ∀ s t : State, Inv s → Quiescent s → step s = .next t → t.sys.phase = .running → t.disp.state = .idle →
    t.sde.busy = false ∧ t.rve.busy = false ∧ t.hoe.started = false ∧ t.tx = Tx.initial ∧
      t.sde.unit = .w32Bswap ∧ t.rx.fifo = [] ∧ t.rx.ip = .entry ∧ t.disp.hi = 0 ∧
      t.rx.isr.length < 8 ∧ t.rx.stalled = false ∧ t.rx.addrDone = false

/-- Two builds that differ in the timing, the wiring and `SO_IDLE` alone take the same steps. For the pins and the
instances this is `00_scope.md` R6 ("no rule depends on it"); for them and for `F_MAX`, `T_RESET` and `T_SAMPLE` it is
`93_implementation_defined.md` U23 ("no functional rule reads the timing and wiring ones"). For `SO_IDLE` no rule says
so: it is the model's inference (log entry 20, DEDUCED) from `10_state.md` R34, U6 and the spec's decision D8, which
give the parameter an electrical meaning only and keep the output value `IDLE` apart from it. -/
def Obligations.TimingAndWiringAreUnread : Prop :=
  ∀ (s : State) (l : LineLevel) (t : Timing) (p : Pins) (n : Instances),
    step (s.rewire l t p n) = andThen (step s) fun u => .next (u.rewire l t p n)
end

