-- ==== Sys2Proof/Laws/State.lean ====
section
/-!
SUPPORT. What each field update of `State` does to each field: one lemma per field per update, all by `rfl`. With
them no proof unfolds an update.
-/
namespace Sys2Proof.Machine

variable (s : State)

@[simp] theorem State.setSys_cfg (v : Sys) : (s.setSys v).cfg = s.cfg := rfl
@[simp] theorem State.setSys_sys (v : Sys) : (s.setSys v).sys = v := rfl
@[simp] theorem State.setSys_csn (v : Sys) : (s.setSys v).csn = s.csn := rfl
@[simp] theorem State.setSys_rx (v : Sys) : (s.setSys v).rx = s.rx := rfl
@[simp] theorem State.setSys_tx (v : Sys) : (s.setSys v).tx = s.tx := rfl
@[simp] theorem State.setSys_hoe (v : Sys) : (s.setSys v).hoe = s.hoe := rfl
@[simp] theorem State.setSys_sde (v : Sys) : (s.setSys v).sde = s.sde := rfl
@[simp] theorem State.setSys_rve (v : Sys) : (s.setSys v).rve = s.rve := rfl
@[simp] theorem State.setSys_disp (v : Sys) : (s.setSys v).disp = s.disp := rfl
@[simp] theorem State.setSys_mem (v : Sys) : (s.setSys v).mem = s.mem := rfl
@[simp] theorem State.setSys_faults (v : Sys) : (s.setSys v).faults = s.faults := rfl
@[simp] theorem State.setSys_inbox (v : Sys) : (s.setSys v).inbox = s.inbox := rfl
@[simp] theorem State.setSys_trace (v : Sys) : (s.setSys v).trace = s.trace := rfl
@[simp] theorem State.setSys_draws (v : Sys) : (s.setSys v).draws = s.draws := rfl
@[simp] theorem State.setSys_setSys (v w : Sys) : (s.setSys v).setSys w = s.setSys w := rfl
@[simp] theorem State.setSys_self : s.setSys s.sys = s := rfl

@[simp] theorem State.setCsn_cfg (v : Bool) : (s.setCsn v).cfg = s.cfg := rfl
@[simp] theorem State.setCsn_sys (v : Bool) : (s.setCsn v).sys = s.sys := rfl
@[simp] theorem State.setCsn_csn (v : Bool) : (s.setCsn v).csn = v := rfl
@[simp] theorem State.setCsn_rx (v : Bool) : (s.setCsn v).rx = s.rx := rfl
@[simp] theorem State.setCsn_tx (v : Bool) : (s.setCsn v).tx = s.tx := rfl
@[simp] theorem State.setCsn_hoe (v : Bool) : (s.setCsn v).hoe = s.hoe := rfl
@[simp] theorem State.setCsn_sde (v : Bool) : (s.setCsn v).sde = s.sde := rfl
@[simp] theorem State.setCsn_rve (v : Bool) : (s.setCsn v).rve = s.rve := rfl
@[simp] theorem State.setCsn_disp (v : Bool) : (s.setCsn v).disp = s.disp := rfl
@[simp] theorem State.setCsn_mem (v : Bool) : (s.setCsn v).mem = s.mem := rfl
@[simp] theorem State.setCsn_faults (v : Bool) : (s.setCsn v).faults = s.faults := rfl
@[simp] theorem State.setCsn_inbox (v : Bool) : (s.setCsn v).inbox = s.inbox := rfl
@[simp] theorem State.setCsn_trace (v : Bool) : (s.setCsn v).trace = s.trace := rfl
@[simp] theorem State.setCsn_draws (v : Bool) : (s.setCsn v).draws = s.draws := rfl
@[simp] theorem State.setCsn_setCsn (v w : Bool) : (s.setCsn v).setCsn w = s.setCsn w := rfl
@[simp] theorem State.setCsn_self : s.setCsn s.csn = s := rfl

@[simp] theorem State.setRx_cfg (v : Rx) : (s.setRx v).cfg = s.cfg := rfl
@[simp] theorem State.setRx_sys (v : Rx) : (s.setRx v).sys = s.sys := rfl
@[simp] theorem State.setRx_csn (v : Rx) : (s.setRx v).csn = s.csn := rfl
@[simp] theorem State.setRx_rx (v : Rx) : (s.setRx v).rx = v := rfl
@[simp] theorem State.setRx_tx (v : Rx) : (s.setRx v).tx = s.tx := rfl
@[simp] theorem State.setRx_hoe (v : Rx) : (s.setRx v).hoe = s.hoe := rfl
@[simp] theorem State.setRx_sde (v : Rx) : (s.setRx v).sde = s.sde := rfl
@[simp] theorem State.setRx_rve (v : Rx) : (s.setRx v).rve = s.rve := rfl
@[simp] theorem State.setRx_disp (v : Rx) : (s.setRx v).disp = s.disp := rfl
@[simp] theorem State.setRx_mem (v : Rx) : (s.setRx v).mem = s.mem := rfl
@[simp] theorem State.setRx_faults (v : Rx) : (s.setRx v).faults = s.faults := rfl
@[simp] theorem State.setRx_inbox (v : Rx) : (s.setRx v).inbox = s.inbox := rfl
@[simp] theorem State.setRx_trace (v : Rx) : (s.setRx v).trace = s.trace := rfl
@[simp] theorem State.setRx_draws (v : Rx) : (s.setRx v).draws = s.draws := rfl
@[simp] theorem State.setRx_setRx (v w : Rx) : (s.setRx v).setRx w = s.setRx w := rfl
@[simp] theorem State.setRx_self : s.setRx s.rx = s := rfl

@[simp] theorem State.setTx_cfg (v : Tx) : (s.setTx v).cfg = s.cfg := rfl
@[simp] theorem State.setTx_sys (v : Tx) : (s.setTx v).sys = s.sys := rfl
@[simp] theorem State.setTx_csn (v : Tx) : (s.setTx v).csn = s.csn := rfl
@[simp] theorem State.setTx_rx (v : Tx) : (s.setTx v).rx = s.rx := rfl
@[simp] theorem State.setTx_tx (v : Tx) : (s.setTx v).tx = v := rfl
@[simp] theorem State.setTx_hoe (v : Tx) : (s.setTx v).hoe = s.hoe := rfl
@[simp] theorem State.setTx_sde (v : Tx) : (s.setTx v).sde = s.sde := rfl
@[simp] theorem State.setTx_rve (v : Tx) : (s.setTx v).rve = s.rve := rfl
@[simp] theorem State.setTx_disp (v : Tx) : (s.setTx v).disp = s.disp := rfl
@[simp] theorem State.setTx_mem (v : Tx) : (s.setTx v).mem = s.mem := rfl
@[simp] theorem State.setTx_faults (v : Tx) : (s.setTx v).faults = s.faults := rfl
@[simp] theorem State.setTx_inbox (v : Tx) : (s.setTx v).inbox = s.inbox := rfl
@[simp] theorem State.setTx_trace (v : Tx) : (s.setTx v).trace = s.trace := rfl
@[simp] theorem State.setTx_draws (v : Tx) : (s.setTx v).draws = s.draws := rfl
@[simp] theorem State.setTx_setTx (v w : Tx) : (s.setTx v).setTx w = s.setTx w := rfl
@[simp] theorem State.setTx_self : s.setTx s.tx = s := rfl

@[simp] theorem State.setHoe_cfg (v : Hoe) : (s.setHoe v).cfg = s.cfg := rfl
@[simp] theorem State.setHoe_sys (v : Hoe) : (s.setHoe v).sys = s.sys := rfl
@[simp] theorem State.setHoe_csn (v : Hoe) : (s.setHoe v).csn = s.csn := rfl
@[simp] theorem State.setHoe_rx (v : Hoe) : (s.setHoe v).rx = s.rx := rfl
@[simp] theorem State.setHoe_tx (v : Hoe) : (s.setHoe v).tx = s.tx := rfl
@[simp] theorem State.setHoe_hoe (v : Hoe) : (s.setHoe v).hoe = v := rfl
@[simp] theorem State.setHoe_sde (v : Hoe) : (s.setHoe v).sde = s.sde := rfl
@[simp] theorem State.setHoe_rve (v : Hoe) : (s.setHoe v).rve = s.rve := rfl
@[simp] theorem State.setHoe_disp (v : Hoe) : (s.setHoe v).disp = s.disp := rfl
@[simp] theorem State.setHoe_mem (v : Hoe) : (s.setHoe v).mem = s.mem := rfl
@[simp] theorem State.setHoe_faults (v : Hoe) : (s.setHoe v).faults = s.faults := rfl
@[simp] theorem State.setHoe_inbox (v : Hoe) : (s.setHoe v).inbox = s.inbox := rfl
@[simp] theorem State.setHoe_trace (v : Hoe) : (s.setHoe v).trace = s.trace := rfl
@[simp] theorem State.setHoe_draws (v : Hoe) : (s.setHoe v).draws = s.draws := rfl
@[simp] theorem State.setHoe_setHoe (v w : Hoe) : (s.setHoe v).setHoe w = s.setHoe w := rfl
@[simp] theorem State.setHoe_self : s.setHoe s.hoe = s := rfl

@[simp] theorem State.setSde_cfg (v : Sde) : (s.setSde v).cfg = s.cfg := rfl
@[simp] theorem State.setSde_sys (v : Sde) : (s.setSde v).sys = s.sys := rfl
@[simp] theorem State.setSde_csn (v : Sde) : (s.setSde v).csn = s.csn := rfl
@[simp] theorem State.setSde_rx (v : Sde) : (s.setSde v).rx = s.rx := rfl
@[simp] theorem State.setSde_tx (v : Sde) : (s.setSde v).tx = s.tx := rfl
@[simp] theorem State.setSde_hoe (v : Sde) : (s.setSde v).hoe = s.hoe := rfl
@[simp] theorem State.setSde_sde (v : Sde) : (s.setSde v).sde = v := rfl
@[simp] theorem State.setSde_rve (v : Sde) : (s.setSde v).rve = s.rve := rfl
@[simp] theorem State.setSde_disp (v : Sde) : (s.setSde v).disp = s.disp := rfl
@[simp] theorem State.setSde_mem (v : Sde) : (s.setSde v).mem = s.mem := rfl
@[simp] theorem State.setSde_faults (v : Sde) : (s.setSde v).faults = s.faults := rfl
@[simp] theorem State.setSde_inbox (v : Sde) : (s.setSde v).inbox = s.inbox := rfl
@[simp] theorem State.setSde_trace (v : Sde) : (s.setSde v).trace = s.trace := rfl
@[simp] theorem State.setSde_draws (v : Sde) : (s.setSde v).draws = s.draws := rfl
@[simp] theorem State.setSde_setSde (v w : Sde) : (s.setSde v).setSde w = s.setSde w := rfl
@[simp] theorem State.setSde_self : s.setSde s.sde = s := rfl

@[simp] theorem State.setRve_cfg (v : Rve) : (s.setRve v).cfg = s.cfg := rfl
@[simp] theorem State.setRve_sys (v : Rve) : (s.setRve v).sys = s.sys := rfl
@[simp] theorem State.setRve_csn (v : Rve) : (s.setRve v).csn = s.csn := rfl
@[simp] theorem State.setRve_rx (v : Rve) : (s.setRve v).rx = s.rx := rfl
@[simp] theorem State.setRve_tx (v : Rve) : (s.setRve v).tx = s.tx := rfl
@[simp] theorem State.setRve_hoe (v : Rve) : (s.setRve v).hoe = s.hoe := rfl
@[simp] theorem State.setRve_sde (v : Rve) : (s.setRve v).sde = s.sde := rfl
@[simp] theorem State.setRve_rve (v : Rve) : (s.setRve v).rve = v := rfl
@[simp] theorem State.setRve_disp (v : Rve) : (s.setRve v).disp = s.disp := rfl
@[simp] theorem State.setRve_mem (v : Rve) : (s.setRve v).mem = s.mem := rfl
@[simp] theorem State.setRve_faults (v : Rve) : (s.setRve v).faults = s.faults := rfl
@[simp] theorem State.setRve_inbox (v : Rve) : (s.setRve v).inbox = s.inbox := rfl
@[simp] theorem State.setRve_trace (v : Rve) : (s.setRve v).trace = s.trace := rfl
@[simp] theorem State.setRve_draws (v : Rve) : (s.setRve v).draws = s.draws := rfl
@[simp] theorem State.setRve_setRve (v w : Rve) : (s.setRve v).setRve w = s.setRve w := rfl
@[simp] theorem State.setRve_self : s.setRve s.rve = s := rfl

@[simp] theorem State.setDisp_cfg (v : Disp) : (s.setDisp v).cfg = s.cfg := rfl
@[simp] theorem State.setDisp_sys (v : Disp) : (s.setDisp v).sys = s.sys := rfl
@[simp] theorem State.setDisp_csn (v : Disp) : (s.setDisp v).csn = s.csn := rfl
@[simp] theorem State.setDisp_rx (v : Disp) : (s.setDisp v).rx = s.rx := rfl
@[simp] theorem State.setDisp_tx (v : Disp) : (s.setDisp v).tx = s.tx := rfl
@[simp] theorem State.setDisp_hoe (v : Disp) : (s.setDisp v).hoe = s.hoe := rfl
@[simp] theorem State.setDisp_sde (v : Disp) : (s.setDisp v).sde = s.sde := rfl
@[simp] theorem State.setDisp_rve (v : Disp) : (s.setDisp v).rve = s.rve := rfl
@[simp] theorem State.setDisp_disp (v : Disp) : (s.setDisp v).disp = v := rfl
@[simp] theorem State.setDisp_mem (v : Disp) : (s.setDisp v).mem = s.mem := rfl
@[simp] theorem State.setDisp_faults (v : Disp) : (s.setDisp v).faults = s.faults := rfl
@[simp] theorem State.setDisp_inbox (v : Disp) : (s.setDisp v).inbox = s.inbox := rfl
@[simp] theorem State.setDisp_trace (v : Disp) : (s.setDisp v).trace = s.trace := rfl
@[simp] theorem State.setDisp_draws (v : Disp) : (s.setDisp v).draws = s.draws := rfl
@[simp] theorem State.setDisp_setDisp (v w : Disp) : (s.setDisp v).setDisp w = s.setDisp w := rfl
@[simp] theorem State.setDisp_self : s.setDisp s.disp = s := rfl

@[simp] theorem State.setMem_cfg (v : Memory) : (s.setMem v).cfg = s.cfg := rfl
@[simp] theorem State.setMem_sys (v : Memory) : (s.setMem v).sys = s.sys := rfl
@[simp] theorem State.setMem_csn (v : Memory) : (s.setMem v).csn = s.csn := rfl
@[simp] theorem State.setMem_rx (v : Memory) : (s.setMem v).rx = s.rx := rfl
@[simp] theorem State.setMem_tx (v : Memory) : (s.setMem v).tx = s.tx := rfl
@[simp] theorem State.setMem_hoe (v : Memory) : (s.setMem v).hoe = s.hoe := rfl
@[simp] theorem State.setMem_sde (v : Memory) : (s.setMem v).sde = s.sde := rfl
@[simp] theorem State.setMem_rve (v : Memory) : (s.setMem v).rve = s.rve := rfl
@[simp] theorem State.setMem_disp (v : Memory) : (s.setMem v).disp = s.disp := rfl
@[simp] theorem State.setMem_mem (v : Memory) : (s.setMem v).mem = v := rfl
@[simp] theorem State.setMem_faults (v : Memory) : (s.setMem v).faults = s.faults := rfl
@[simp] theorem State.setMem_inbox (v : Memory) : (s.setMem v).inbox = s.inbox := rfl
@[simp] theorem State.setMem_trace (v : Memory) : (s.setMem v).trace = s.trace := rfl
@[simp] theorem State.setMem_draws (v : Memory) : (s.setMem v).draws = s.draws := rfl
@[simp] theorem State.setMem_setMem (v w : Memory) : (s.setMem v).setMem w = s.setMem w := rfl
@[simp] theorem State.setMem_self : s.setMem s.mem = s := rfl

@[simp] theorem State.setFaults_cfg (v : List SpecFault) : (s.setFaults v).cfg = s.cfg := rfl
@[simp] theorem State.setFaults_sys (v : List SpecFault) : (s.setFaults v).sys = s.sys := rfl
@[simp] theorem State.setFaults_csn (v : List SpecFault) : (s.setFaults v).csn = s.csn := rfl
@[simp] theorem State.setFaults_rx (v : List SpecFault) : (s.setFaults v).rx = s.rx := rfl
@[simp] theorem State.setFaults_tx (v : List SpecFault) : (s.setFaults v).tx = s.tx := rfl
@[simp] theorem State.setFaults_hoe (v : List SpecFault) : (s.setFaults v).hoe = s.hoe := rfl
@[simp] theorem State.setFaults_sde (v : List SpecFault) : (s.setFaults v).sde = s.sde := rfl
@[simp] theorem State.setFaults_rve (v : List SpecFault) : (s.setFaults v).rve = s.rve := rfl
@[simp] theorem State.setFaults_disp (v : List SpecFault) : (s.setFaults v).disp = s.disp := rfl
@[simp] theorem State.setFaults_mem (v : List SpecFault) : (s.setFaults v).mem = s.mem := rfl
@[simp] theorem State.setFaults_faults (v : List SpecFault) : (s.setFaults v).faults = v := rfl
@[simp] theorem State.setFaults_inbox (v : List SpecFault) : (s.setFaults v).inbox = s.inbox := rfl
@[simp] theorem State.setFaults_trace (v : List SpecFault) : (s.setFaults v).trace = s.trace := rfl
@[simp] theorem State.setFaults_draws (v : List SpecFault) : (s.setFaults v).draws = s.draws := rfl
@[simp] theorem State.setFaults_setFaults (v w : List SpecFault) : (s.setFaults v).setFaults w = s.setFaults w := rfl
@[simp] theorem State.setFaults_self : s.setFaults s.faults = s := rfl

@[simp] theorem State.setInbox_cfg (v : List Input) : (s.setInbox v).cfg = s.cfg := rfl
@[simp] theorem State.setInbox_sys (v : List Input) : (s.setInbox v).sys = s.sys := rfl
@[simp] theorem State.setInbox_csn (v : List Input) : (s.setInbox v).csn = s.csn := rfl
@[simp] theorem State.setInbox_rx (v : List Input) : (s.setInbox v).rx = s.rx := rfl
@[simp] theorem State.setInbox_tx (v : List Input) : (s.setInbox v).tx = s.tx := rfl
@[simp] theorem State.setInbox_hoe (v : List Input) : (s.setInbox v).hoe = s.hoe := rfl
@[simp] theorem State.setInbox_sde (v : List Input) : (s.setInbox v).sde = s.sde := rfl
@[simp] theorem State.setInbox_rve (v : List Input) : (s.setInbox v).rve = s.rve := rfl
@[simp] theorem State.setInbox_disp (v : List Input) : (s.setInbox v).disp = s.disp := rfl
@[simp] theorem State.setInbox_mem (v : List Input) : (s.setInbox v).mem = s.mem := rfl
@[simp] theorem State.setInbox_faults (v : List Input) : (s.setInbox v).faults = s.faults := rfl
@[simp] theorem State.setInbox_inbox (v : List Input) : (s.setInbox v).inbox = v := rfl
@[simp] theorem State.setInbox_trace (v : List Input) : (s.setInbox v).trace = s.trace := rfl
@[simp] theorem State.setInbox_draws (v : List Input) : (s.setInbox v).draws = s.draws := rfl
@[simp] theorem State.setInbox_setInbox (v w : List Input) : (s.setInbox v).setInbox w = s.setInbox w := rfl
@[simp] theorem State.setInbox_self : s.setInbox s.inbox = s := rfl

@[simp] theorem State.setTrace_cfg (v : List Output) : (s.setTrace v).cfg = s.cfg := rfl
@[simp] theorem State.setTrace_sys (v : List Output) : (s.setTrace v).sys = s.sys := rfl
@[simp] theorem State.setTrace_csn (v : List Output) : (s.setTrace v).csn = s.csn := rfl
@[simp] theorem State.setTrace_rx (v : List Output) : (s.setTrace v).rx = s.rx := rfl
@[simp] theorem State.setTrace_tx (v : List Output) : (s.setTrace v).tx = s.tx := rfl
@[simp] theorem State.setTrace_hoe (v : List Output) : (s.setTrace v).hoe = s.hoe := rfl
@[simp] theorem State.setTrace_sde (v : List Output) : (s.setTrace v).sde = s.sde := rfl
@[simp] theorem State.setTrace_rve (v : List Output) : (s.setTrace v).rve = s.rve := rfl
@[simp] theorem State.setTrace_disp (v : List Output) : (s.setTrace v).disp = s.disp := rfl
@[simp] theorem State.setTrace_mem (v : List Output) : (s.setTrace v).mem = s.mem := rfl
@[simp] theorem State.setTrace_faults (v : List Output) : (s.setTrace v).faults = s.faults := rfl
@[simp] theorem State.setTrace_inbox (v : List Output) : (s.setTrace v).inbox = s.inbox := rfl
@[simp] theorem State.setTrace_trace (v : List Output) : (s.setTrace v).trace = v := rfl
@[simp] theorem State.setTrace_draws (v : List Output) : (s.setTrace v).draws = s.draws := rfl
@[simp] theorem State.setTrace_setTrace (v w : List Output) : (s.setTrace v).setTrace w = s.setTrace w := rfl
@[simp] theorem State.setTrace_self : s.setTrace s.trace = s := rfl

@[simp] theorem State.setDraws_cfg (v : Nat) : (s.setDraws v).cfg = s.cfg := rfl
@[simp] theorem State.setDraws_sys (v : Nat) : (s.setDraws v).sys = s.sys := rfl
@[simp] theorem State.setDraws_csn (v : Nat) : (s.setDraws v).csn = s.csn := rfl
@[simp] theorem State.setDraws_rx (v : Nat) : (s.setDraws v).rx = s.rx := rfl
@[simp] theorem State.setDraws_tx (v : Nat) : (s.setDraws v).tx = s.tx := rfl
@[simp] theorem State.setDraws_hoe (v : Nat) : (s.setDraws v).hoe = s.hoe := rfl
@[simp] theorem State.setDraws_sde (v : Nat) : (s.setDraws v).sde = s.sde := rfl
@[simp] theorem State.setDraws_rve (v : Nat) : (s.setDraws v).rve = s.rve := rfl
@[simp] theorem State.setDraws_disp (v : Nat) : (s.setDraws v).disp = s.disp := rfl
@[simp] theorem State.setDraws_mem (v : Nat) : (s.setDraws v).mem = s.mem := rfl
@[simp] theorem State.setDraws_faults (v : Nat) : (s.setDraws v).faults = s.faults := rfl
@[simp] theorem State.setDraws_inbox (v : Nat) : (s.setDraws v).inbox = s.inbox := rfl
@[simp] theorem State.setDraws_trace (v : Nat) : (s.setDraws v).trace = s.trace := rfl
@[simp] theorem State.setDraws_draws (v : Nat) : (s.setDraws v).draws = v := rfl
@[simp] theorem State.setDraws_setDraws (v w : Nat) : (s.setDraws v).setDraws w = s.setDraws w := rfl
@[simp] theorem State.setDraws_self : s.setDraws s.draws = s := rfl

/-! ### Another build: what no functional rule reads is replaced -/

section
variable (l : LineLevel) (t : Timing) (p : Pins) (n : Instances)

@[simp] theorem State.rewire_cfg : (s.rewire l t p n).cfg = s.cfg.rewire l t p n := rfl
@[simp] theorem State.rewire_sys : (s.rewire l t p n).sys = s.sys := rfl
@[simp] theorem State.rewire_csn : (s.rewire l t p n).csn = s.csn := rfl
@[simp] theorem State.rewire_rx : (s.rewire l t p n).rx = s.rx := rfl
@[simp] theorem State.rewire_tx : (s.rewire l t p n).tx = s.tx := rfl
@[simp] theorem State.rewire_hoe : (s.rewire l t p n).hoe = s.hoe := rfl
@[simp] theorem State.rewire_sde : (s.rewire l t p n).sde = s.sde := rfl
@[simp] theorem State.rewire_rve : (s.rewire l t p n).rve = s.rve := rfl
@[simp] theorem State.rewire_disp : (s.rewire l t p n).disp = s.disp := rfl
@[simp] theorem State.rewire_mem : (s.rewire l t p n).mem = s.mem := rfl
@[simp] theorem State.rewire_faults : (s.rewire l t p n).faults = s.faults := rfl
@[simp] theorem State.rewire_inbox : (s.rewire l t p n).inbox = s.inbox := rfl
@[simp] theorem State.rewire_trace : (s.rewire l t p n).trace = s.trace := rfl
@[simp] theorem State.rewire_draws : (s.rewire l t p n).draws = s.draws := rfl
@[simp] theorem State.rewire_setSys (v : Sys) :
    (s.rewire l t p n).setSys v = (s.setSys v).rewire l t p n := rfl
@[simp] theorem State.rewire_setCsn (v : Bool) :
    (s.rewire l t p n).setCsn v = (s.setCsn v).rewire l t p n := rfl
@[simp] theorem State.rewire_setRx (v : Rx) :
    (s.rewire l t p n).setRx v = (s.setRx v).rewire l t p n := rfl
@[simp] theorem State.rewire_setTx (v : Tx) :
    (s.rewire l t p n).setTx v = (s.setTx v).rewire l t p n := rfl
@[simp] theorem State.rewire_setHoe (v : Hoe) :
    (s.rewire l t p n).setHoe v = (s.setHoe v).rewire l t p n := rfl
@[simp] theorem State.rewire_setSde (v : Sde) :
    (s.rewire l t p n).setSde v = (s.setSde v).rewire l t p n := rfl
@[simp] theorem State.rewire_setRve (v : Rve) :
    (s.rewire l t p n).setRve v = (s.setRve v).rewire l t p n := rfl
@[simp] theorem State.rewire_setDisp (v : Disp) :
    (s.rewire l t p n).setDisp v = (s.setDisp v).rewire l t p n := rfl
@[simp] theorem State.rewire_setMem (v : Memory) :
    (s.rewire l t p n).setMem v = (s.setMem v).rewire l t p n := rfl
@[simp] theorem State.rewire_setFaults (v : List SpecFault) :
    (s.rewire l t p n).setFaults v = (s.setFaults v).rewire l t p n := rfl
@[simp] theorem State.rewire_setInbox (v : List Input) :
    (s.rewire l t p n).setInbox v = (s.setInbox v).rewire l t p n := rfl
@[simp] theorem State.rewire_setTrace (v : List Output) :
    (s.rewire l t p n).setTrace v = (s.setTrace v).rewire l t p n := rfl
@[simp] theorem State.rewire_setDraws (v : Nat) :
    (s.rewire l t p n).setDraws v = (s.setDraws v).rewire l t p n := rfl
@[simp] theorem Config.rewire_addrBits (c : Config) : (c.rewire l t p n).addrBits = c.addrBits := rfl
@[simp] theorem Config.rewire_memSize (c : Config) : (c.rewire l t p n).memSize = c.memSize := rfl
@[simp] theorem Config.rewire_rveXferCount (c : Config) : (c.rewire l t p n).rveXferCount = c.rveXferCount := rfl
@[simp] theorem Config.rewire_rxDepth (c : Config) : (c.rewire l t p n).rxDepth = c.rxDepth := rfl
@[simp] theorem Config.rewire_txDepth (c : Config) : (c.rewire l t p n).txDepth = c.txDepth := rfl
@[simp] theorem Config.rewire_preserve (c : Config) : (c.rewire l t p n).preserve = c.preserve := rfl

end

end Sys2Proof.Machine
end

