-- ==== Sys2Proof/Laws/Memory.lean ====
section
/-!
SUPPORT. The Memory Array: reading after writing, and that every memory operation keeps the canonical form.
-/
namespace Sys2Proof.Machine

theorem memLookup_memPut (a b : Nat) (v : Byte) (m : Memory) :
    memLookup b (memPut a v m) = if b = a then some v else memLookup b m := by
  induction m with
  | nil => simp [memPut, memLookup, eq_comm]
  | cons c m ih =>
    simp only [memPut]
    split
    · simp [memLookup, eq_comm]
    · split
      · rename_i _ h
        subst h
        by_cases hb : b = c.1
        · simp [memLookup, hb]
        · simp [memLookup, hb, Ne.symm hb]
      · rename_i _ h
        simp only [memLookup, ih]
        by_cases hc : c.1 = b <;> simp [hc]
        intro h2; exact absurd (h2 ▸ hc.symm : a = c.1) h

theorem memLookup_memDrop (a b : Nat) (m : Memory) :
    memLookup b (memDrop a m) = if b = a then none else memLookup b m := by
  unfold memDrop
  induction m with
  | nil => simp [memLookup]
  | cons c m ih =>
    by_cases hc : c.1 = a
    · rw [List.filter_cons_of_neg (by simp [hc]), ih]
      by_cases hb : b = a
      · simp [hb]
      · simp [hb, memLookup, hc, Ne.symm hb]
    · rw [List.filter_cons_of_pos (by simp [hc])]
      simp only [memLookup, ih]
      by_cases hb : c.1 = b
      · simp [hb, hb ▸ hc]
      · simp [hb]

/-- A byte reads back as written. -/
@[simp] theorem memRead_memWrite_same (p : Bool) (m : Memory) (a : Nat) (v : Byte) :
    memRead p (memWrite p m a v) a = v := by
  unfold memRead memWrite
  split
  · simp [memLookup_memDrop, *]
  · simp [memLookup_memPut]

/-- A write leaves every other offset alone. -/
theorem memRead_memWrite_other (p : Bool) (m : Memory) {a b : Nat} (v : Byte) (h : b ≠ a) :
    memRead p (memWrite p m a v) b = memRead p m b := by
  unfold memRead memWrite
  split
  · simp [memLookup_memDrop, h]
  · simp [memLookup_memPut, h]

theorem mem_memPut {a : Nat} {v : Byte} {m : Memory} {c : Host.Cell} (h : c ∈ memPut a v m) :
    c = (a, v) ∨ c ∈ m := by
  induction m with
  | nil => simpa [memPut] using h
  | cons d m ih =>
    simp only [memPut] at h
    split at h
    · simpa using h
    · split at h
      · simp only [List.mem_cons] at h ⊢; tauto
      · simp only [List.mem_cons] at h ⊢
        rcases h with h | h
        · exact .inr (.inl h)
        · have := ih h; tauto

theorem memPut_rising {a : Nat} {v : Byte} {m : Memory} (h : m.Pairwise (fun c d => c.1 < d.1)) :
    (memPut a v m).Pairwise (fun c d => c.1 < d.1) := by
  induction m with
  | nil => simp [memPut]
  | cons c m ih =>
    have hc : ∀ d ∈ m, c.1 < d.1 := fun d hd => List.rel_of_pairwise_cons h hd
    have hm := h.of_cons
    simp only [memPut]
    split
    · rename_i ha
      refine List.Pairwise.cons (fun d hd => ?_) h
      rcases List.mem_cons.1 hd with rfl | hd
      · exact ha
      · exact ha.trans (hc d hd)
    · split
      · rename_i _ ha
        exact List.Pairwise.cons (fun d hd => ha ▸ hc d hd) hm
      · refine List.Pairwise.cons (fun d hd => ?_) (ih hm)
        rcases mem_memPut hd with rfl | hd
        · dsimp only; omega
        · exact hc d hd

/-- A write inside the array keeps the canonical form. -/
theorem memWrite_wf {p : Bool} {size : Nat} {m : Memory} {a : Nat} (v : Byte) (h : Memory.wf p size m)
    (ha : a < size) : Memory.wf p size (memWrite p m a v) := by
  unfold memWrite
  split
  · exact ⟨h.1.filter _, fun c hc => h.2 c (List.mem_filter.1 hc).1⟩
  · rename_i hv
    refine ⟨memPut_rising h.1, fun c hc => ?_⟩
    rcases mem_memPut hc with rfl | hc
    · exact ⟨ha, hv⟩
    · exact h.2 c hc

/-- The empty listing is canonical. -/
theorem nil_wf (p : Bool) (size : Nat) : Memory.wf p size [] := ⟨.nil, by simp⟩

/-- The Memory Array has its canonical form at reset. -/
theorem reset_memory_wf :
    Memory.wf State.reset.cfg.preserve State.reset.cfg.memSize State.reset.mem := nil_wf _ _

/-- `storeByte` keeps the canonical form. -/
theorem storeByte_wf {s : State} (a : Nat) (v : Byte) (h : Memory.wf s.cfg.preserve s.cfg.memSize s.mem) :
    Memory.wf s.cfg.preserve s.cfg.memSize (storeByte a v s).mem := by
  unfold storeByte
  split
  · exact memWrite_wf v h ‹_›
  · unfold raiseFault; split <;> exact h

theorem memLookup_none {p : Bool} {size : Nat} {m : Memory} (h : Memory.wf p size m) {a : Nat}
    (hl : ∀ c ∈ m, a < c.1) : memLookup a m = none := by
  induction m with
  | nil => rfl
  | cons c m ih =>
    have hc := hl c (by simp)
    have hm : Memory.wf p size m := ⟨h.1.of_cons, fun d hd => h.2 d (by simp [hd])⟩
    simp only [memLookup, if_neg (by omega : ¬ c.1 = a)]
    exact ih hm fun d hd => hl d (by simp [hd])

/-- Equal memories are equal data: two canonical listings that read alike everywhere are the same listing. -/
theorem memory_ext {p : Bool} {size : Nat} {m n : Memory} (hm : Memory.wf p size m) (hn : Memory.wf p size n)
    (h : ∀ a, memRead p m a = memRead p n a) : m = n := by
  have key : ∀ {m : Memory}, Memory.wf p size m → ∀ (a : Nat) (v : Byte), (a, v) ∈ m → memRead p m a = v := by
    intro m
    induction m with
    | nil => simp
    | cons c m ih =>
      intro hm a v hv
      have hm' : Memory.wf p size m := ⟨hm.1.of_cons, fun d hd => hm.2 d (by simp [hd])⟩
      rcases List.mem_cons.1 hv with rfl | hv
      · simp [memRead, memLookup]
      · have hlt : c.1 < a := List.rel_of_pairwise_cons hm.1 hv
        have := ih hm' a v hv
        simpa [memRead, memLookup, Nat.ne_of_lt hlt] using this
  have back : ∀ {m : Memory} (a : Nat), memRead p m a ≠ memDefault p a → (a, memRead p m a) ∈ m := by
    intro m
    induction m with
    | nil => intro a ha; simp [memRead, memLookup] at ha
    | cons c m ih =>
      intro a ha
      by_cases hc : c.1 = a
      · have : memRead p (c :: m) a = c.2 := by simp [memRead, memLookup, hc]
        rw [this, ← hc]; simp
      · have : memRead p (c :: m) a = memRead p m a := by simp [memRead, memLookup, hc]
        rw [this] at ha ⊢
        exact List.mem_cons_of_mem _ (ih a ha)
  have sub : ∀ {m n : Memory}, Memory.wf p size m → (∀ a, memRead p m a = memRead p n a) → m ⊆ n := by
    intro m n hm h c hc
    have hv := key hm c.1 c.2 hc
    have := back (m := n) c.1 (by rw [← h, hv]; exact (hm.2 c hc).2)
    rwa [← h, hv] at this
  have nodup : ∀ {m : Memory}, Memory.wf p size m → m.Nodup := by
    intro m hm
    exact hm.1.imp fun {a b} hlt heq => by rw [heq] at hlt; exact absurd hlt (lt_irrefl _)
  have perm : m.Perm n := (List.perm_ext_iff_of_nodup (nodup hm) (nodup hn)).2
    fun c => ⟨fun hc => sub hm h hc, fun hc => sub hn (fun a => (h a).symm) hc⟩
  exact perm.eq_of_pairwise (fun a b _ _ h1 h2 => absurd (h1.trans h2) (lt_irrefl _)) hm.1 hn.1

end Sys2Proof.Machine
end

