-- ==== Sys2Proof/Laws/Ops.lean ====
section
/-!
SUPPORT. The shared operations of `Ops.lean`: for each, the fields it leaves alone (`_frame`, simp lemmas) and one
lemma that says what it does.
-/
namespace Sys2Proof.Machine

variable (s : State)

/-! ### Frames -/

@[simp] theorem popRx_frame :
    (popRx s).cfg = s.cfg ∧ (popRx s).sys = s.sys ∧ (popRx s).csn = s.csn ∧ (popRx s).tx = s.tx ∧
    (popRx s).hoe = s.hoe ∧ (popRx s).sde = s.sde ∧ (popRx s).rve = s.rve ∧ (popRx s).disp = s.disp ∧
    (popRx s).mem = s.mem ∧ (popRx s).faults = s.faults ∧ (popRx s).inbox = s.inbox ∧
    (popRx s).trace = s.trace ∧ (popRx s).draws = s.draws :=
  ⟨rfl, rfl, rfl, rfl, rfl, rfl, rfl, rfl, rfl, rfl, rfl, rfl, rfl⟩

@[simp] theorem triggerSde_frame (a : Nat) :
    (triggerSde a s).cfg = s.cfg ∧ (triggerSde a s).sys = s.sys ∧ (triggerSde a s).csn = s.csn ∧
    (triggerSde a s).rx = s.rx ∧ (triggerSde a s).tx = s.tx ∧ (triggerSde a s).hoe = s.hoe ∧
    (triggerSde a s).rve = s.rve ∧ (triggerSde a s).disp = s.disp ∧ (triggerSde a s).mem = s.mem ∧
    (triggerSde a s).faults = s.faults ∧ (triggerSde a s).inbox = s.inbox ∧ (triggerSde a s).trace = s.trace ∧
    (triggerSde a s).draws = s.draws :=
  ⟨rfl, rfl, rfl, rfl, rfl, rfl, rfl, rfl, rfl, rfl, rfl, rfl, rfl⟩

@[simp] theorem abortSde_frame :
    (abortSde s).cfg = s.cfg ∧ (abortSde s).sys = s.sys ∧ (abortSde s).csn = s.csn ∧ (abortSde s).rx = s.rx ∧
    (abortSde s).tx = s.tx ∧ (abortSde s).hoe = s.hoe ∧ (abortSde s).rve = s.rve ∧ (abortSde s).disp = s.disp ∧
    (abortSde s).mem = s.mem ∧ (abortSde s).faults = s.faults ∧ (abortSde s).inbox = s.inbox ∧
    (abortSde s).trace = s.trace ∧ (abortSde s).draws = s.draws :=
  ⟨rfl, rfl, rfl, rfl, rfl, rfl, rfl, rfl, rfl, rfl, rfl, rfl, rfl⟩

@[simp] theorem triggerRve_frame (a : Nat) :
    (triggerRve a s).cfg = s.cfg ∧ (triggerRve a s).sys = s.sys ∧ (triggerRve a s).csn = s.csn ∧
    (triggerRve a s).rx = s.rx ∧ (triggerRve a s).tx = s.tx ∧ (triggerRve a s).hoe = s.hoe ∧
    (triggerRve a s).sde = s.sde ∧ (triggerRve a s).disp = s.disp ∧ (triggerRve a s).mem = s.mem ∧
    (triggerRve a s).faults = s.faults ∧ (triggerRve a s).inbox = s.inbox ∧ (triggerRve a s).trace = s.trace ∧
    (triggerRve a s).draws = s.draws :=
  ⟨rfl, rfl, rfl, rfl, rfl, rfl, rfl, rfl, rfl, rfl, rfl, rfl, rfl⟩

@[simp] theorem abortRve_frame :
    (abortRve s).cfg = s.cfg ∧ (abortRve s).sys = s.sys ∧ (abortRve s).csn = s.csn ∧ (abortRve s).rx = s.rx ∧
    (abortRve s).tx = s.tx ∧ (abortRve s).hoe = s.hoe ∧ (abortRve s).sde = s.sde ∧ (abortRve s).disp = s.disp ∧
    (abortRve s).mem = s.mem ∧ (abortRve s).faults = s.faults ∧ (abortRve s).inbox = s.inbox ∧
    (abortRve s).trace = s.trace ∧ (abortRve s).draws = s.draws :=
  ⟨rfl, rfl, rfl, rfl, rfl, rfl, rfl, rfl, rfl, rfl, rfl, rfl, rfl⟩

@[simp] theorem gotoDisp_frame (d : DispState) :
    (gotoDisp d s).cfg = s.cfg ∧ (gotoDisp d s).sys = s.sys ∧ (gotoDisp d s).csn = s.csn ∧
    (gotoDisp d s).rx = s.rx ∧ (gotoDisp d s).tx = s.tx ∧ (gotoDisp d s).hoe = s.hoe ∧
    (gotoDisp d s).sde = s.sde ∧ (gotoDisp d s).rve = s.rve ∧ (gotoDisp d s).mem = s.mem ∧
    (gotoDisp d s).faults = s.faults ∧ (gotoDisp d s).inbox = s.inbox ∧ (gotoDisp d s).trace = s.trace ∧
    (gotoDisp d s).draws = s.draws :=
  ⟨rfl, rfl, rfl, rfl, rfl, rfl, rfl, rfl, rfl, rfl, rfl, rfl, rfl⟩

@[simp] theorem applyFastPatch_frame :
    (applyFastPatch s).cfg = s.cfg ∧ (applyFastPatch s).sys = s.sys ∧ (applyFastPatch s).csn = s.csn ∧
    (applyFastPatch s).rx = s.rx ∧ (applyFastPatch s).hoe = s.hoe ∧ (applyFastPatch s).rve = s.rve ∧
    (applyFastPatch s).disp = s.disp ∧ (applyFastPatch s).mem = s.mem ∧ (applyFastPatch s).faults = s.faults ∧
    (applyFastPatch s).inbox = s.inbox ∧ (applyFastPatch s).trace = s.trace ∧ (applyFastPatch s).draws = s.draws :=
  ⟨rfl, rfl, rfl, rfl, rfl, rfl, rfl, rfl, rfl, rfl, rfl, rfl⟩

@[simp] theorem revertFastPatch_frame :
    (revertFastPatch s).cfg = s.cfg ∧ (revertFastPatch s).sys = s.sys ∧ (revertFastPatch s).csn = s.csn ∧
    (revertFastPatch s).rx = s.rx ∧ (revertFastPatch s).hoe = s.hoe ∧ (revertFastPatch s).rve = s.rve ∧
    (revertFastPatch s).disp = s.disp ∧ (revertFastPatch s).mem = s.mem ∧
    (revertFastPatch s).faults = s.faults ∧ (revertFastPatch s).inbox = s.inbox ∧
    (revertFastPatch s).trace = s.trace ∧ (revertFastPatch s).draws = s.draws :=
  ⟨rfl, rfl, rfl, rfl, rfl, rfl, rfl, rfl, rfl, rfl, rfl, rfl⟩

@[simp] theorem exitRead_frame :
    (exitRead s).cfg = s.cfg ∧ (exitRead s).sys = s.sys ∧ (exitRead s).csn = s.csn ∧ (exitRead s).rx = s.rx ∧
    (exitRead s).tx = s.tx ∧ (exitRead s).rve = s.rve ∧ (exitRead s).mem = s.mem ∧
    (exitRead s).faults = s.faults ∧ (exitRead s).inbox = s.inbox ∧ (exitRead s).trace = s.trace ∧
    (exitRead s).draws = s.draws :=
  ⟨rfl, rfl, rfl, rfl, rfl, rfl, rfl, rfl, rfl, rfl, rfl⟩

@[simp] theorem exitFast_frame :
    (exitFast s).cfg = s.cfg ∧ (exitFast s).sys = s.sys ∧ (exitFast s).csn = s.csn ∧ (exitFast s).rx = s.rx ∧
    (exitFast s).hoe = s.hoe ∧ (exitFast s).rve = s.rve ∧ (exitFast s).mem = s.mem ∧
    (exitFast s).faults = s.faults ∧ (exitFast s).inbox = s.inbox ∧ (exitFast s).trace = s.trace ∧
    (exitFast s).draws = s.draws :=
  ⟨rfl, rfl, rfl, rfl, rfl, rfl, rfl, rfl, rfl, rfl, rfl⟩

@[simp] theorem exitUnknown_frame :
    (exitUnknown s).cfg = s.cfg ∧ (exitUnknown s).sys = s.sys ∧ (exitUnknown s).csn = s.csn ∧
    (exitUnknown s).rx = s.rx ∧ (exitUnknown s).tx = s.tx ∧ (exitUnknown s).hoe = s.hoe ∧
    (exitUnknown s).sde = s.sde ∧ (exitUnknown s).rve = s.rve ∧ (exitUnknown s).mem = s.mem ∧
    (exitUnknown s).faults = s.faults ∧ (exitUnknown s).inbox = s.inbox ∧ (exitUnknown s).trace = s.trace ∧
    (exitUnknown s).draws = s.draws :=
  ⟨rfl, rfl, rfl, rfl, rfl, rfl, rfl, rfl, rfl, rfl, rfl, rfl, rfl⟩

@[simp] theorem endReturn_frame :
    (endReturn s).cfg = s.cfg ∧ (endReturn s).sys = s.sys ∧ (endReturn s).csn = s.csn ∧
    (endReturn s).hoe = s.hoe ∧ (endReturn s).sde = s.sde ∧ (endReturn s).rve = s.rve ∧
    (endReturn s).mem = s.mem ∧ (endReturn s).faults = s.faults ∧ (endReturn s).inbox = s.inbox ∧
    (endReturn s).trace = s.trace ∧ (endReturn s).draws = s.draws :=
  ⟨rfl, rfl, rfl, rfl, rfl, rfl, rfl, rfl, rfl, rfl, rfl⟩

@[simp] theorem emit_frame (o : Output) :
    (emit o s).cfg = s.cfg ∧ (emit o s).sys = s.sys ∧ (emit o s).csn = s.csn ∧ (emit o s).rx = s.rx ∧
    (emit o s).tx = s.tx ∧ (emit o s).hoe = s.hoe ∧ (emit o s).sde = s.sde ∧ (emit o s).rve = s.rve ∧
    (emit o s).disp = s.disp ∧ (emit o s).mem = s.mem ∧ (emit o s).faults = s.faults ∧
    (emit o s).inbox = s.inbox ∧ (emit o s).draws = s.draws :=
  ⟨rfl, rfl, rfl, rfl, rfl, rfl, rfl, rfl, rfl, rfl, rfl, rfl, rfl⟩

@[simp] theorem drawn_frame :
    (drawn s).cfg = s.cfg ∧ (drawn s).sys = s.sys ∧ (drawn s).csn = s.csn ∧ (drawn s).rx = s.rx ∧
    (drawn s).tx = s.tx ∧ (drawn s).hoe = s.hoe ∧ (drawn s).sde = s.sde ∧ (drawn s).rve = s.rve ∧
    (drawn s).disp = s.disp ∧ (drawn s).mem = s.mem ∧ (drawn s).faults = s.faults ∧ (drawn s).inbox = s.inbox ∧
    (drawn s).trace = s.trace :=
  ⟨rfl, rfl, rfl, rfl, rfl, rfl, rfl, rfl, rfl, rfl, rfl, rfl, rfl⟩

/-! ### Records -/

/-- `raiseFault` records the fault once and changes nothing else. -/
theorem raiseFault_spec (f : SpecFault) :
    raiseFault f s = s ∧ f ∈ s.faults ∨ raiseFault f s = s.setFaults (s.faults ++ [f]) ∧ f ∉ s.faults := by
  unfold raiseFault; split
  · exact .inl ⟨rfl, ‹_›⟩
  · exact .inr ⟨rfl, ‹_›⟩

@[simp] theorem raiseFault_frame (f : SpecFault) :
    (raiseFault f s).cfg = s.cfg ∧ (raiseFault f s).sys = s.sys ∧ (raiseFault f s).csn = s.csn ∧
    (raiseFault f s).rx = s.rx ∧ (raiseFault f s).tx = s.tx ∧ (raiseFault f s).hoe = s.hoe ∧
    (raiseFault f s).sde = s.sde ∧ (raiseFault f s).rve = s.rve ∧ (raiseFault f s).disp = s.disp ∧
    (raiseFault f s).mem = s.mem ∧ (raiseFault f s).inbox = s.inbox ∧ (raiseFault f s).trace = s.trace ∧
    (raiseFault f s).draws = s.draws := by
  unfold raiseFault; split <;> simp

@[simp] theorem mem_raiseFault (f g : SpecFault) : g ∈ (raiseFault f s).faults ↔ g ∈ s.faults ∨ g = f := by
  rcases raiseFault_spec s f with ⟨h, hf⟩ | ⟨h, _⟩
  · rw [h]; exact ⟨.inl, fun h => h.elim id fun e => e ▸ hf⟩
  · simp [h]

/-- `faults` stays a set. -/
theorem raiseFault_nodup {s : State} (f : SpecFault) (h : s.faults.Nodup) : (raiseFault f s).faults.Nodup := by
  rcases raiseFault_spec s f with ⟨e, _⟩ | ⟨e, hf⟩
  · rwa [e]
  · rw [e]; simpa [List.nodup_append, h] using fun x hx (e : x = f) => hf (e ▸ hx)

@[simp] theorem emit_trace (o : Output) : (emit o s).trace = s.trace ++ [o] := rfl
@[simp] theorem drawn_draws : (drawn s).draws = s.draws + 1 := rfl

/-! ### MemRead and MemWrite -/

@[simp] theorem afterLoad_frame (a : Nat) :
    (afterLoad a s).cfg = s.cfg ∧ (afterLoad a s).sys = s.sys ∧ (afterLoad a s).csn = s.csn ∧
    (afterLoad a s).rx = s.rx ∧ (afterLoad a s).tx = s.tx ∧ (afterLoad a s).hoe = s.hoe ∧
    (afterLoad a s).sde = s.sde ∧ (afterLoad a s).rve = s.rve ∧ (afterLoad a s).disp = s.disp ∧
    (afterLoad a s).mem = s.mem ∧ (afterLoad a s).faults = s.faults ∧ (afterLoad a s).inbox = s.inbox ∧
    (afterLoad a s).trace = s.trace := by
  unfold afterLoad; split <;> simp

/-- Inside the array `MemRead` gives the array's byte; beyond it, the next draw. -/
theorem loadByte_spec (a : Nat) :
    (a < s.cfg.memSize → loadByte a s = readMem s a) ∧
    (s.cfg.memSize ≤ a → loadByte a s = Config.freeByte s.draws) := by
  unfold loadByte
  exact ⟨fun h => if_pos h, fun h => if_neg (by omega)⟩

@[simp] theorem loadBytes_length (n a : Nat) : (loadBytes n a s).1.length = n := by
  induction n generalizing a s with
  | zero => rfl
  | succ n ih => simp [loadBytes, ih]

@[simp] theorem loadBytes_frame (n a : Nat) :
    (loadBytes n a s).2.cfg = s.cfg ∧ (loadBytes n a s).2.sys = s.sys ∧ (loadBytes n a s).2.csn = s.csn ∧
    (loadBytes n a s).2.rx = s.rx ∧ (loadBytes n a s).2.tx = s.tx ∧ (loadBytes n a s).2.hoe = s.hoe ∧
    (loadBytes n a s).2.sde = s.sde ∧ (loadBytes n a s).2.rve = s.rve ∧ (loadBytes n a s).2.disp = s.disp ∧
    (loadBytes n a s).2.mem = s.mem ∧ (loadBytes n a s).2.faults = s.faults ∧
    (loadBytes n a s).2.inbox = s.inbox ∧ (loadBytes n a s).2.trace = s.trace := by
  induction n generalizing a s with
  | zero => simp [loadBytes]
  | succ n ih => simpa [loadBytes] using ih (afterLoad a s) (a + 1)

/-- `MemRead` gives the bytes of ascending offsets: the array's inside it. -/
theorem loadBytes_getElem (n a i : Nat) (hi : i < n) (ha : a + i < s.cfg.memSize) :
    (loadBytes n a s).1[i]? = some (readMem s (a + i)) := by
  induction n generalizing a i s with
  | zero => omega
  | succ n ih =>
    cases i with
    | zero => simpa [loadBytes] using (loadByte_spec s a).1 ha
    | succ i =>
      have := ih (afterLoad a s) (a + 1) i (by omega) (by simpa [Nat.add_comm, Nat.add_left_comm] using ha)
      simpa [loadBytes, readMem, Nat.add_comm, Nat.add_left_comm] using this

/-- `MemRead` changes nothing but the draw counter: one draw for each offset at or beyond `MEM_SIZE`. -/
theorem loadBytes_state (n a : Nat) :
    (loadBytes n a s).2 = s.setDraws (s.draws + (n - (s.cfg.memSize - a))) := by
  induction n generalizing a s with
  | zero => simp [loadBytes]
  | succ n ih =>
    simp only [loadBytes, ih]
    unfold afterLoad
    split
    · congr 1; omega
    · simp only [drawn, State.setDraws_draws, State.setDraws_cfg, State.setDraws_setDraws]; congr 1; omega

/-- `MemWrite` of one byte: inside the array it writes that byte; beyond it, it only raises `WriteOutOfRange`. -/
theorem storeByte_spec (a : Nat) (v : Byte) :
    a < s.cfg.memSize ∧ storeByte a v s = s.setMem (memWrite s.cfg.preserve s.mem a v) ∨
    s.cfg.memSize ≤ a ∧ storeByte a v s = raiseFault (.writeOutOfRange a) s := by
  unfold storeByte; split
  · exact .inl ⟨‹_›, rfl⟩
  · exact .inr ⟨by omega, rfl⟩

@[simp] theorem storeByte_frame (a : Nat) (v : Byte) :
    (storeByte a v s).cfg = s.cfg ∧ (storeByte a v s).sys = s.sys ∧ (storeByte a v s).csn = s.csn ∧
    (storeByte a v s).rx = s.rx ∧ (storeByte a v s).tx = s.tx ∧ (storeByte a v s).hoe = s.hoe ∧
    (storeByte a v s).sde = s.sde ∧ (storeByte a v s).rve = s.rve ∧ (storeByte a v s).disp = s.disp ∧
    (storeByte a v s).inbox = s.inbox ∧ (storeByte a v s).trace = s.trace ∧ (storeByte a v s).draws = s.draws := by
  unfold storeByte; split <;> simp

theorem storeByte_nodup {s : State} (a : Nat) (v : Byte) (h : s.faults.Nodup) : (storeByte a v s).faults.Nodup := by
  rcases storeByte_spec s a v with ⟨_, e⟩ | ⟨_, e⟩ <;> rw [e]
  · exact h
  · exact raiseFault_nodup _ h

/-! ### Engines and the end of a transaction -/

@[simp] theorem popRx_rx : (popRx s).rx = { s.rx with fifo := s.rx.fifo.tail } := rfl
@[simp] theorem triggerSde_sde (a : Nat) :
    (triggerSde a s).sde = { s.sde with raddr := a, count := readXferCount, busy := true } := rfl
@[simp] theorem abortSde_sde : (abortSde s).sde = { s.sde with busy := false } := rfl
@[simp] theorem triggerRve_rve (a : Nat) :
    (triggerRve a s).rve = { s.rve with waddr := a, count := s.cfg.rveXferCount, busy := true } := rfl
@[simp] theorem abortRve_rve : (abortRve s).rve = { s.rve with busy := false } := rfl
@[simp] theorem gotoDisp_disp (d : DispState) : (gotoDisp d s).disp = { s.disp with state := d } := rfl
@[simp] theorem applyFastPatch_patch :
    (applyFastPatch s).tx = { s.tx with jump := .fast, pull := .p8 } ∧
      (applyFastPatch s).sde = { s.sde with unit := .w8 } := ⟨rfl, rfl⟩
@[simp] theorem revertFastPatch_patch :
    (revertFastPatch s).tx = { s.tx with jump := .normal, pull := .p32 } ∧
      (revertFastPatch s).sde = { s.sde with unit := .w32Bswap } := ⟨rfl, rfl⟩

/-- The end-of-transaction entry, if it is enabled, is the exit step of the command class; a WRITE drains first. -/
theorem endEntry_cases {s t : State} (h : endEntry s = some t) :
    s.disp.cmd = some .read ∧ t = exitRead s ∨
    s.disp.cmd = some .fastRead ∧ t = exitFast s ∨
    s.disp.cmd = some .write ∧ (s.rx.fifo = [] ∨ s.rve.busy = false) ∧ t = gotoDisp .resetPipelines (abortRve s) ∨
    s.disp.cmd = some .unknown ∧ t = exitUnknown s := by
  unfold endEntry at h
  split at h
  · unfold exitWrite at h
    split at h
    · rename_i hc hg
      refine .inr (.inr (.inl ⟨hc, ?_, by simpa using h.symm⟩))
      simpa [Bool.or_eq_true] using hg
    · cases h
  · exact .inl ⟨‹_›, by simpa using h.symm⟩
  · exact .inr (.inl ⟨‹_›, by simpa using h.symm⟩)
  · exact .inr (.inr (.inr ⟨‹_›, by simpa using h.symm⟩))
  · cases h

/-- The five steps of the pipeline reset together (R122): both paths at their entry, the patches not touched. -/
theorem pipelineReset_eq (r : Rx) (t : Tx) :
    pipelineReset (r, t) = (Rx.initial, ⟨true, .entry, 0, [], t.jump, [], t.pull⟩) := rfl

/-- The end-of-transaction return. -/
theorem endReturn_eq :
    endReturn s = ((s.setRx Rx.initial).setTx
      ⟨true, .entry, 0, [], s.tx.jump, [], s.tx.pull⟩).setDisp Disp.initial := by
  rw [endReturn, pipelineReset_eq]

@[simp] theorem endReturn_paths :
    (endReturn s).rx = Rx.initial ∧ (endReturn s).disp = Disp.initial ∧
      (endReturn s).tx = ⟨true, .entry, 0, [], s.tx.jump, [], s.tx.pull⟩ := by
  rw [endReturn_eq]; exact ⟨rfl, rfl, rfl⟩

/-! ### Outcomes -/

@[simp] theorem andThen_next (k : State → Host.Outcome State Fault Refusal) : andThen (.next s) k = k s := rfl
@[simp] theorem andThen_fault (r : Fault) (k : State → Host.Outcome State Fault Refusal) :
    andThen (.fault r) k = .fault r := rfl
@[simp] theorem andThen_refused (r : Refusal) (k : State → Host.Outcome State Fault Refusal) :
    andThen (.refused r) k = .refused r := rfl

/-- A sequence answers a next state exactly if both pieces do. -/
theorem andThen_eq_next {o : Host.Outcome State Fault Refusal} {k : State → Host.Outcome State Fault Refusal}
    {t : State} : andThen o k = .next t ↔ ∃ u, o = .next u ∧ k u = .next t := by
  cases o <;> simp

end Sys2Proof.Machine
end

