-- ==== Sys2Proof/Laws/Agents.lean ====
section
/-!
SUPPORT. The agents: what each step of `RXSM`, `TXSM`, `HOE`, `SDE`, `RVE` and `DISP` can do, said once.
-/
namespace Sys2Proof.Machine

variable (s : State)

/-! ### Frames -/

@[simp] theorem rxPush_frame :
    (rxPush s).cfg = s.cfg ∧ (rxPush s).sys = s.sys ∧ (rxPush s).csn = s.csn ∧ (rxPush s).tx = s.tx ∧
    (rxPush s).hoe = s.hoe ∧ (rxPush s).sde = s.sde ∧ (rxPush s).rve = s.rve ∧ (rxPush s).disp = s.disp ∧
    (rxPush s).mem = s.mem ∧ (rxPush s).faults = s.faults ∧ (rxPush s).inbox = s.inbox ∧
    (rxPush s).trace = s.trace ∧ (rxPush s).draws = s.draws :=
  ⟨rfl, rfl, rfl, rfl, rfl, rfl, rfl, rfl, rfl, rfl, rfl, rfl, rfl⟩

@[simp] theorem rxShiftIn_frame (b : Bool) :
    (rxShiftIn b s).cfg = s.cfg ∧ (rxShiftIn b s).sys = s.sys ∧ (rxShiftIn b s).csn = s.csn ∧
    (rxShiftIn b s).tx = s.tx ∧ (rxShiftIn b s).hoe = s.hoe ∧ (rxShiftIn b s).sde = s.sde ∧
    (rxShiftIn b s).rve = s.rve ∧ (rxShiftIn b s).disp = s.disp ∧ (rxShiftIn b s).mem = s.mem ∧
    (rxShiftIn b s).faults = s.faults ∧ (rxShiftIn b s).inbox = s.inbox ∧ (rxShiftIn b s).trace = s.trace ∧
    (rxShiftIn b s).draws = s.draws :=
  ⟨rfl, rfl, rfl, rfl, rfl, rfl, rfl, rfl, rfl, rfl, rfl, rfl, rfl⟩

@[simp] theorem txEnterDummy_frame :
    (txEnterDummy s).cfg = s.cfg ∧ (txEnterDummy s).sys = s.sys ∧ (txEnterDummy s).csn = s.csn ∧
    (txEnterDummy s).rx = s.rx ∧ (txEnterDummy s).hoe = s.hoe ∧ (txEnterDummy s).sde = s.sde ∧
    (txEnterDummy s).rve = s.rve ∧ (txEnterDummy s).disp = s.disp ∧ (txEnterDummy s).mem = s.mem ∧
    (txEnterDummy s).faults = s.faults ∧ (txEnterDummy s).inbox = s.inbox ∧ (txEnterDummy s).trace = s.trace ∧
    (txEnterDummy s).draws = s.draws :=
  ⟨rfl, rfl, rfl, rfl, rfl, rfl, rfl, rfl, rfl, rfl, rfl, rfl, rfl⟩

@[simp] theorem txEnterShift_frame :
    (txEnterShift s).cfg = s.cfg ∧ (txEnterShift s).sys = s.sys ∧ (txEnterShift s).csn = s.csn ∧
    (txEnterShift s).rx = s.rx ∧ (txEnterShift s).hoe = s.hoe ∧ (txEnterShift s).sde = s.sde ∧
    (txEnterShift s).rve = s.rve ∧ (txEnterShift s).disp = s.disp ∧ (txEnterShift s).mem = s.mem ∧
    (txEnterShift s).faults = s.faults ∧ (txEnterShift s).inbox = s.inbox ∧ (txEnterShift s).trace = s.trace ∧
    (txEnterShift s).draws = s.draws :=
  ⟨rfl, rfl, rfl, rfl, rfl, rfl, rfl, rfl, rfl, rfl, rfl, rfl, rfl⟩

@[simp] theorem dispReadArm_frame :
    (dispReadArm s).cfg = s.cfg ∧ (dispReadArm s).sys = s.sys ∧ (dispReadArm s).csn = s.csn ∧
    (dispReadArm s).rx = s.rx ∧ (dispReadArm s).tx = s.tx ∧ (dispReadArm s).sde = s.sde ∧
    (dispReadArm s).rve = s.rve ∧ (dispReadArm s).mem = s.mem ∧ (dispReadArm s).faults = s.faults ∧
    (dispReadArm s).inbox = s.inbox ∧ (dispReadArm s).trace = s.trace ∧ (dispReadArm s).draws = s.draws :=
  ⟨rfl, rfl, rfl, rfl, rfl, rfl, rfl, rfl, rfl, rfl, rfl, rfl⟩

@[simp] theorem dispIgnore_frame :
    (dispIgnore s).cfg = s.cfg ∧ (dispIgnore s).sys = s.sys ∧ (dispIgnore s).csn = s.csn ∧
    (dispIgnore s).rx = s.rx ∧ (dispIgnore s).tx = s.tx ∧ (dispIgnore s).hoe = s.hoe ∧
    (dispIgnore s).sde = s.sde ∧ (dispIgnore s).rve = s.rve ∧ (dispIgnore s).mem = s.mem ∧
    (dispIgnore s).faults = s.faults ∧ (dispIgnore s).inbox = s.inbox ∧ (dispIgnore s).trace = s.trace ∧
    (dispIgnore s).draws = s.draws :=
  ⟨rfl, rfl, rfl, rfl, rfl, rfl, rfl, rfl, rfl, rfl, rfl, rfl, rfl⟩

/-! ### Read pipeline -/

@[simp] theorem rxShiftIn_rx (b : Bool) : (rxShiftIn b s).rx = { s.rx with isr := s.rx.isr ++ [b] } := rfl

@[simp] theorem rxPush_rx :
    (rxPush s).rx = ⟨s.rx.en, rxNextIp s.rx.ip, [], s.rx.fifo ++ [completedWord s.rx.isr], false,
      s.rx.addrDone || decide (s.rx.ip = .addr)⟩ := rfl

/-- A `Clock` step of `RXSM` shifts the bit in; a completed word is pushed, or held while the queue is full. -/
theorem rxClock_cases (b : Bool) :
    rxCnt s + 1 ≠ rxTarget s.cfg.addrBits s.rx.ip ∧ rxClock b s = rxShiftIn b s ∨
    rxCnt s + 1 = rxTarget s.cfg.addrBits s.rx.ip ∧ rxFull s = true ∧
      rxClock b s = (rxShiftIn b s).setRx { (rxShiftIn b s).rx with stalled := true } ∨
    rxCnt s + 1 = rxTarget s.cfg.addrBits s.rx.ip ∧ rxFull s = false ∧ rxClock b s = rxPush (rxShiftIn b s) := by
  have hc : rxCnt (rxShiftIn b s) = rxCnt s + 1 := by simp [rxCnt]
  have hf : rxFull (rxShiftIn b s) = rxFull s := rfl
  unfold rxClock rxComplete
  rw [hc, hf]
  split
  · split <;> simp_all
  · simp_all

/-- `RXSM` touches its own fields only. -/
theorem rxClock_only_rx (b : Bool) : rxClock b s = s.setRx (rxClock b s).rx := by
  unfold rxClock rxComplete
  split
  · split <;> rfl
  · rfl

/-- The pending push is taken when there is room. -/
theorem rxUnstall_eq_some {s t : State} :
    rxUnstall s = some t ↔ s.rx.stalled = true ∧ rxFull s = false ∧ t = rxPush s := by
  unfold rxUnstall
  by_cases h : s.rx.stalled <;> by_cases h2 : rxFull s <;> simp [h, h2]
  exact eq_comm

/-! ### Hand-off and receive-side engine -/

/-- The hand-off engine's one transfer. -/
theorem hoeStep_eq_some {s t : State} :
    hoeStep s = some t ↔ ∃ e es, s.rx.fifo = e :: es ∧ s.hoe.started = true ∧ s.rx.addrDone = true ∧
      t = (triggerSde (addressWord e) (popRx s)).setHoe ⟨false⟩ := by
  unfold hoeStep
  cases s.rx.fifo with
  | nil => simp
  | cons e es =>
    by_cases h : s.hoe.started <;> by_cases h2 : s.rx.addrDone <;> simp [h, h2]
    exact eq_comm

/-- The state after one transfer of the receive-side engine. -/
def rveNext (e : RxEntry) (s : State) : State :=
  (storeByte s.rve.waddr (dataByte e) (popRx s)).setRve
    ⟨decide (s.rve.count - 1 ≠ 0), s.rve.waddr + 1, s.rve.count - 1⟩

/-- One transfer of the receive-side engine. -/
theorem rveStep_eq_some {s t : State} :
    rveStep s = some t ↔ ∃ e es, s.rx.fifo = e :: es ∧ s.rve.busy = true ∧ 0 < s.rve.count ∧ t = rveNext e s := by
  unfold rveStep rveNext
  cases s.rx.fifo with
  | nil => simp
  | cons e es =>
    by_cases h : s.rve.busy <;> by_cases h2 : 0 < s.rve.count <;> simp [h, h2]
    exact eq_comm

/-! ### Send-side engine and write pipeline -/

/-- The state after one transfer of the send-side engine. -/
def sdeNext (s : State) : State :=
  ((loadBytes s.sde.unit.bytes s.sde.raddr s).2.setTx
    { s.tx with fifo := s.tx.fifo ++ [(loadBytes s.sde.unit.bytes s.sde.raddr s).1] }).setSde
    ⟨decide (s.sde.count - 1 ≠ 0), s.sde.raddr + s.sde.unit.bytes, s.sde.count - 1, s.sde.unit⟩

/-- One transfer of the send-side engine. -/
theorem sdeStep_eq_some {s t : State} :
    sdeStep s = some t ↔ s.sde.busy = true ∧ 0 < s.sde.count ∧ txFull s = false ∧ t = sdeNext s := by
  unfold sdeStep sdeNext
  by_cases h : s.sde.busy <;> by_cases h2 : 0 < s.sde.count <;> by_cases h3 : txFull s <;>
    simp [h, h2, h3]
  exact eq_comm

/-- A pull takes an entry of the size of `tx.pull`, and no other. -/
theorem txPull_eq_ok {s t : State} {e : List Byte} :
    txPull e s = .ok t ↔ 8 * e.length = s.tx.pull.bits ∧
      t = s.setTx { s.tx with fifo := s.tx.fifo.tail, osr := unitBits e } := by
  unfold txPull
  split
  · simp only [Except.ok.injEq, *, true_and]; exact eq_comm
  · simp [*]

/-- `TXSM` touches its own fields and the draw counter only. -/
theorem txClock_only_tx {s t : State} {o : So} (h : txClock s = .ok (o, t)) :
    t = (s.setTx t.tx).setDraws t.draws := by
  have hp : ∀ {e : List Byte} {u : State}, txPull e s = .ok u → u = (s.setTx u.tx).setDraws u.draws := by
    intro e u hu; rw [txPull_eq_ok] at hu; rw [hu.2]; rfl
  have hs : ∀ u : State, u = (s.setTx u.tx).setDraws u.draws →
      (txShiftOut u).2 = (s.setTx (txShiftOut u).2.tx).setDraws (txShiftOut u).2.draws := by
    intro u hu
    unfold txShiftOut
    split
    · exact hu
    · rw [hu]; rfl
  unfold txClock at h
  split at h
  · unfold txFirst at h
    split at h
    · cases h; rfl
    · split at h
      · cases h
      · rename_i u hu
        split at h
        · cases h; rw [hp hu]; rfl
        · have e : _ = t := congrArg Prod.snd (Except.ok.inj h)
          rw [← e]; exact hs _ (by rw [hp hu]; rfl)
  · cases h; rfl
  · unfold txNext at h
    split at h
    · have e : _ = t := congrArg Prod.snd (Except.ok.inj h)
      rw [← e]; exact hs s rfl
    · cases h; rfl
    · split at h
      · cases h
      · rename_i u hu
        have e : _ = t := congrArg Prod.snd (Except.ok.inj h)
        rw [← e]; exact hs u (hp hu)

/-! ### Dispatcher -/

/-- What one non-sampling step of the dispatcher can do: the transition table of R125. -/
theorem dispStep_cases {s t : State} (h : dispStep s = some t) :
    s.disp.state = .idle ∧ s.rx.fifo ≠ [] ∧ t = gotoDisp .decode s ∨
    (∃ e es, s.disp.state = .decode ∧ s.rx.fifo = e :: es ∧
      t = (popRx s).setDisp
        ⟨armState (classify s.cfg.addrBits (commandWord e)), s.disp.hi,
          some (classify s.cfg.addrBits (commandWord e))⟩) ∨
    s.disp.state = .readArm ∧ t = dispReadArm s ∨
    s.disp.state = .ignoreUnknown ∧ t = dispIgnore s ∨
    s.disp.state = .fastReadArm ∧ s.tx.jump = .normal ∧ t = applyFastPatch s ∨
    (∃ e es, s.disp.state = .fastReadArm ∧ s.tx.jump = .fast ∧ s.disp.hi < 2 ∧ s.rx.fifo = e :: es ∧
      t = gotoDisp .awaitDeselect (triggerSde (addressWord e) (popRx s))) ∨
    (∃ e es, s.disp.state = .writeArm ∧ s.disp.hi < 2 ∧ s.rx.fifo = e :: es ∧
      t = gotoDisp .awaitDeselect (triggerRve (addressWord e) (popRx s))) ∨
    Waiting s ∧ s.disp.hi = 2 ∧ endEntry s = some t ∨
    s.disp.state = .resetPipelines ∧ t = endReturn s := by
  unfold dispStep at h
  split at h
  · unfold dispWake at h
    split at h
    · cases h
    · simp_all
  · unfold dispDecode at h
    split at h
    · cases h
    · simp_all
  · simp_all
  · unfold dispFastReadArm patched at h
    cases hj : s.tx.jump
    · simp_all
    · simp only [hj, decide_true, Bool.not_true, Bool.false_eq_true, if_false] at h
      split at h
      · simp_all [Waiting]
      · split at h
        · cases h
        · split at h <;> simp_all
  · unfold dispWriteArm at h
    split at h
    · simp_all [Waiting]
    · split at h
      · cases h
      · split at h <;> simp_all
  · simp_all
  · unfold dispAwait at h
    split at h <;> simp_all [Waiting]
  · simp_all

/-- A sample counts a high level, clears the count on a low one, and does nothing where it is not enabled. -/
theorem dispSample_spec :
    sampleEnabled s = true ∧ dispSample s = s.setDisp { s.disp with hi := if s.csn then s.disp.hi + 1 else 0 } ∨
    sampleEnabled s = false ∧ dispSample s = s := by
  unfold dispSample
  split <;> simp_all

end Sys2Proof.Machine
end

