-- ==== Sys2Proof/Laws/Settle.lean ====
section
/-!
SUPPORT. Quiescence: internal steps cannot follow one another for ever, `settle`'s bound is large enough, and so
`settle` can be computed one internal step at a time.
-/
namespace Sys2Proof.Machine

/-- An internal step is a step of one of the five agents of a running machine. -/
theorem internal_cases {s t : State} (h : internal s = some t) :
    s.sys.phase = .running ∧
      (rxUnstall s = some t ∨ hoeStep s = some t ∨ sdeStep s = some t ∨ rveStep s = some t ∨ dispStep s = some t) := by
  unfold internal at h
  split at h
  · rename_i hr
    refine ⟨by simpa [running] using hr, ?_⟩
    simp only [Option.or_eq_some_iff] at h
    tauto
  · cases h

/-- A quiescent running machine has no agent with an enabled step. -/
theorem quiescent_iff {s : State} (hr : s.sys.phase = .running) :
    Quiescent s ↔ rxUnstall s = none ∧ hoeStep s = none ∧ sdeStep s = none ∧ rveStep s = none ∧ dispStep s = none := by
  simp [Quiescent, internal, running, hr, Option.or_eq_none_iff]

/-- A machine that is not running is quiescent. -/
theorem quiescent_of_not_running {s : State} (hr : s.sys.phase ≠ .running) : Quiescent s := by
  simp [Quiescent, internal, running, hr]

/-- How many dispatcher positions can still be passed without a sample. -/
def dispRank (s : State) : Nat :=
  match s.disp.state, decide (s.disp.hi = 2) with
  | .idle, true => 16
  | .decode, true => 15
  | .readArm, true => 14
  | .ignoreUnknown, true => 14
  | .fastReadArm, true => if s.tx.jump = .normal then 14 else 13
  | .writeArm, true => 13
  | .awaitDeselect, true => 12
  | .resetPipelines, _ => 11
  | .idle, false => 8
  | .decode, false => 7
  | .readArm, false => 6
  | .ignoreUnknown, false => 6
  | .fastReadArm, false => if s.tx.jump = .normal then 6 else 5
  | .writeArm, false => 5
  | .awaitDeselect, false => 4

/-- The measure that every internal step lowers. -/
def settleMeasure (s : State) : Nat :=
  dispRank s * (s.cfg.txDepth + 1) + (if s.rx.stalled then 2 else 0) + s.rx.fifo.length +
    (s.cfg.txDepth - s.tx.fifo.length)

theorem dispRank_le (s : State) : dispRank s ≤ 16 := by
  unfold dispRank; split <;> (try split) <;> omega

theorem settleMeasure_le_bound (s : State) : settleMeasure s ≤ settleBound s := by
  have h := Nat.mul_le_mul_right (s.cfg.txDepth + 1) (dispRank_le s)
  unfold settleMeasure settleBound
  split <;> omega

theorem dispRank_congr {s t : State} (h1 : t.disp = s.disp) (h2 : t.tx.jump = s.tx.jump) : dispRank t = dispRank s := by
  unfold dispRank; rw [h1, h2]

/-- A dispatcher step lowers the rank, and refills the transmit queue's room only when it does. -/
theorem dispStep_rank {s t : State} (h : dispStep s = some t) :
    dispRank t < dispRank s ∧ t.cfg = s.cfg ∧ t.rx.fifo.length ≤ s.rx.fifo.length ∧
      (t.rx.stalled = true → s.rx.stalled = true) := by
  rcases dispStep_cases h with ⟨hd, _, rfl⟩ | ⟨e, es, hd, hf, rfl⟩ | ⟨hd, rfl⟩ | ⟨hd, rfl⟩ | ⟨hd, hj, rfl⟩ |
    ⟨e, es, hd, hj, hh, hf, rfl⟩ | ⟨e, es, hd, hh, hf, rfl⟩ | ⟨hd, hh, he⟩ | ⟨hd, rfl⟩
  · simp only [dispRank, gotoDisp_disp, hd, gotoDisp_frame]
    by_cases h2 : s.disp.hi = 2 <;> simp [h2]
  · refine ⟨?_, by simp, by simp, by simp⟩
    simp only [dispRank, hd, State.setDisp_disp, State.setDisp_tx, popRx_frame]
    cases classify s.cfg.addrBits (commandWord e) <;> by_cases h2 : s.disp.hi = 2 <;> simp [armState, h2] <;>
      split <;> omega
  · simp only [dispRank, dispReadArm, hd]
    by_cases h2 : s.disp.hi = 2 <;> simp [h2]
  · simp only [dispRank, dispIgnore, hd]
    by_cases h2 : s.disp.hi = 2 <;> simp [h2]
  · simp only [dispRank, hd, applyFastPatch_frame]
    by_cases h2 : s.disp.hi = 2 <;> simp [h2, hj]
  · have h2 : s.disp.hi ≠ 2 := by omega
    simp [dispRank, hd, h2, hj]
  · have h2 : s.disp.hi ≠ 2 := by omega
    simp [dispRank, hd, h2]
  · have key : t.disp.state = .resetPipelines ∧ t.cfg = s.cfg ∧ t.rx = s.rx := by
      rcases endEntry_cases he with ⟨_, rfl⟩ | ⟨_, rfl⟩ | ⟨_, _, rfl⟩ | ⟨_, rfl⟩
      · exact ⟨rfl, rfl, rfl⟩
      · exact ⟨rfl, rfl, rfl⟩
      · exact ⟨rfl, rfl, rfl⟩
      · exact ⟨rfl, rfl, rfl⟩
    obtain ⟨ht, hc, hr⟩ := key
    refine ⟨?_, hc, by rw [hr], by rw [hr]; exact id⟩
    have : dispRank t = 11 := by simp [dispRank, ht]
    rw [this]
    rcases hd with hd | hd | ⟨hd, hj⟩ <;> simp [dispRank, *]
  · simp [dispRank, hd, Disp.initial, Rx.initial]

/-- Every internal step lowers the measure. -/
theorem internal_decreases {s t : State} (h : internal s = some t) : settleMeasure t < settleMeasure s := by
  obtain ⟨-, h | h | h | h | h⟩ := internal_cases h
  · obtain ⟨hs, -, rfl⟩ := rxUnstall_eq_some.1 h
    have : dispRank (rxPush s) = dispRank s := dispRank_congr (by simp) (by simp)
    simp only [settleMeasure, this, hs, rxPush_rx, rxPush_frame, List.length_append, List.length_singleton]
    simp; omega
  · obtain ⟨e, es, hf, -, -, rfl⟩ := hoeStep_eq_some.1 h
    have : dispRank ((triggerSde (addressWord e) (popRx s)).setHoe ⟨false⟩) = dispRank s :=
      dispRank_congr (by simp) (by simp)
    simp [settleMeasure, this, hf]
  · obtain ⟨-, -, hfull, rfl⟩ := sdeStep_eq_some.1 h
    have : dispRank (sdeNext s) = dispRank s := dispRank_congr (by simp [sdeNext]) (by simp [sdeNext])
    have hf : s.tx.fifo.length < s.cfg.txDepth := by simpa [txFull] using hfull
    simp only [settleMeasure, this]
    simp [sdeNext]; omega
  · obtain ⟨e, es, hf, -, -, rfl⟩ := rveStep_eq_some.1 h
    have : dispRank (rveNext e s) = dispRank s := dispRank_congr (by simp [rveNext]) (by simp [rveNext])
    simp only [settleMeasure, this]
    simp [rveNext, hf]
  · obtain ⟨hr, hc, hf, hs⟩ := dispStep_rank h
    have hm := Nat.mul_le_mul_right (s.cfg.txDepth + 1) (Nat.succ_le_of_lt hr)
    rw [Nat.succ_mul] at hm
    simp only [settleMeasure, hc]
    have hst : (if t.rx.stalled then 2 else 0) ≤ (if s.rx.stalled then 2 else 0 : Nat) := by
      cases ht : t.rx.stalled
      · simp
      · simp [hs ht]
    omega

theorem settleFor_of_measure {n : Nat} {s : State} (h : settleMeasure s ≤ n) :
    Quiescent (settleFor n s) ∧ ∀ m, n ≤ m → settleFor m s = settleFor n s := by
  induction n generalizing s with
  | zero =>
    have hq : internal s = none := by
      cases hi : internal s with
      | none => rfl
      | some t => have := internal_decreases hi; omega
    refine ⟨hq, fun m _ => ?_⟩
    cases m <;> simp [settleFor, hq]
  | succ n ih =>
    cases hi : internal s with
    | none =>
      refine ⟨by simp [settleFor, hi, Quiescent], fun m _ => ?_⟩
      cases m <;> simp [settleFor, hi]
    | some t =>
      have hlt := internal_decreases hi
      obtain ⟨hq, hm⟩ := ih (s := t) (by omega)
      refine ⟨by simpa [settleFor, hi] using hq, fun m hle => ?_⟩
      cases m with
      | zero => omega
      | succ m => simpa [settleFor, hi] using hm m (by omega)

/-- After `settle` no internal step is enabled. -/
theorem settle_quiescent (s : State) : Quiescent (settle s) :=
  (settleFor_of_measure (settleMeasure_le_bound s)).1

/-- `settle` takes an enabled internal step first. -/
theorem settle_of_internal {s t : State} (h : internal s = some t) : settle s = settle t := by
  have hs := settleFor_of_measure (le_refl (settleMeasure s))
  have ht := settleFor_of_measure (le_refl (settleMeasure t))
  have hlt := internal_decreases h
  unfold settle
  rw [hs.2 _ (settleMeasure_le_bound s), ht.2 _ (settleMeasure_le_bound t)]
  obtain ⟨n, hn⟩ : ∃ n, settleMeasure s = n + 1 := ⟨settleMeasure s - 1, by omega⟩
  rw [hn]
  simp only [settleFor, h]
  exact ht.2 n (by omega)

/-- A quiescent machine is settled. -/
theorem settle_of_quiescent {s : State} (h : Quiescent s) : settle s = s := by
  unfold settle
  cases settleBound s with
  | zero => rfl
  | succ n => unfold Quiescent at h; simp [settleFor, h]

/-- To prove something of a settled machine, prove that every internal step keeps it. -/
theorem settle_induction {P : State → Prop} (hstep : ∀ s t, P s → internal s = some t → P t) {s : State} (h : P s) :
    P (settle s) := by
  have : ∀ n s, P s → P (settleFor n s) := by
    intro n
    induction n with
    | zero => exact fun s h => h
    | succ n ih =>
      intro s h
      cases hi : internal s with
      | none => simpa [settleFor, hi] using h
      | some t => simpa [settleFor, hi] using ih t (hstep s t h hi)
  exact this _ s h

end Sys2Proof.Machine
end

