-- ==== Sys2Proof/Laws/Events.lean ====
section
/-!
SUPPORT. Events: sequences of them, what a `Clock` event does in a running machine, and which fields quiescence
depends on.
-/
namespace Sys2Proof.Machine

/-! ### Sequences -/

@[simp] theorem doEvents_nil (s : State) : doEvents [] s = .next s := rfl

@[simp] theorem doEvents_cons (e : Event) (es : List Event) (s : State) :
    doEvents (e :: es) s = andThen (doEvent e s) (doEvents es) := rfl

/-- Events in two parts. -/
theorem doEvents_append (es fs : List Event) (s : State) :
    doEvents (es ++ fs) s = andThen (doEvents es s) (doEvents fs) := by
  induction es generalizing s with
  | nil => rfl
  | cons e es ih =>
    simp only [List.cons_append, doEvents_cons]
    cases doEvent e s <;> simp [ih]

/-- A frame: the falling select, the clocks, the deselect. -/
theorem transact_eq (bits : List Bool) (s : State) :
    transact bits s = andThen (doEvents (bits.map .clock) (selectFall s)) (doEvents deselect) := by
  simp [transact, frameEvents, doEvents_append, doEvent]

/-- Every command is a transaction on its frame. -/
theorem exec_eq_transact (i : Instr) (s : State) : exec i s = transact (encode s.cfg.addrBits i) s := by
  cases i <;> rfl

/-! ### Quiescence -/

/-- Quiescence depends on the queues, the pending push, the engines, the patch and the dispatcher only. -/
theorem quiescent_congr {s t : State} (h1 : t.sys.phase = s.sys.phase) (h2 : t.cfg = s.cfg)
    (h3 : t.rx.fifo = s.rx.fifo) (h4 : t.rx.stalled = s.rx.stalled) (h5 : t.rx.addrDone = s.rx.addrDone)
    (h6 : t.tx.fifo = s.tx.fifo) (h7 : t.tx.jump = s.tx.jump) (h8 : t.hoe = s.hoe) (h9 : t.sde = s.sde)
    (h10 : t.rve = s.rve) (h11 : t.disp = s.disp) : Quiescent t ↔ Quiescent s := by
  by_cases hr : s.sys.phase = .running
  · rw [quiescent_iff hr, quiescent_iff (h1.trans hr)]
    have e1 : rxUnstall t = none ↔ rxUnstall s = none := by
      unfold rxUnstall rxFull; rw [h2, h3, h4]; split <;> simp
    have e2 : hoeStep t = none ↔ hoeStep s = none := by
      unfold hoeStep; rw [h3, h5, h8]; split <;> (try split) <;> simp
    have e3 : sdeStep t = none ↔ sdeStep s = none := by
      unfold sdeStep txFull; rw [h2, h6, h9]; split <;> simp
    have e4 : rveStep t = none ↔ rveStep s = none := by
      unfold rveStep; rw [h3, h10]; split <;> (try split) <;> simp
    have e5 : dispStep t = none ↔ dispStep s = none := by
      have hend : endEntry t = none ↔ endEntry s = none := by
        unfold endEntry exitWrite; rw [h11, h3, h10]; split <;> (try split) <;> simp
      unfold dispStep dispWake dispDecode dispFastReadArm dispWriteArm dispAwait patched
      rw [h11, h7, h3]
      split
      · split <;> simp
      · split <;> simp
      · simp
      · split
        · simp
        · split
          · exact hend
          · split <;> (try split) <;> simp
      · split
        · exact hend
        · split <;> (try split) <;> simp
      · simp
      · split
        · exact hend
        · simp
      · simp
    rw [e1, e2, e3, e4, e5]
  · exact ⟨fun _ => quiescent_of_not_running hr,
      fun _ => quiescent_of_not_running (fun h => hr (h1.symm.trans h))⟩

/-- The clean idle state is quiescent. -/
theorem quiescent_of_clean {s : State} (h : CleanControl s) : Quiescent s := by
  obtain ⟨hp, -, hrx, -, -, hs, -, -, hd⟩ := h
  rw [quiescent_iff hp]
  simp [rxUnstall, hoeStep, sdeStep, rveStep, dispStep, dispWake, hrx, hs, hd, Rx.initial, Disp.initial]

/-! ### Clock events -/

/-- A `Clock` event of a selected, quiescent machine with nothing to send and no word to complete: the bit is
collected, the master samples `IDLE`, and the machine stays quiescent. -/
theorem clock_collects {s : State} (b : Bool) (hp : s.sys.phase = .running) (hc : s.csn = false)
    (hq : Quiescent s) (hen : s.rx.en = true) (hst : s.rx.stalled = false)
    (hcnt : rxCnt s + 1 < rxTarget s.cfg.addrBits s.rx.ip) (htx : s.tx.ip = .entry) (hfifo : s.tx.fifo = []) :
    clock b s = .next (emit (.so .idle) (rxShiftIn b s)) ∧ Quiescent (emit (.so .idle) (rxShiftIn b s)) := by
  have hqs : Quiescent (rxShiftIn b s) :=
    (quiescent_congr (s := s) (t := rxShiftIn b s) rfl rfl rfl rfl rfl rfl rfl rfl rfl rfl rfl).2 hq
  refine ⟨?_,
    (quiescent_congr (s := rxShiftIn b s) (t := emit (.so .idle) (rxShiftIn b s)) rfl rfl rfl rfl rfl rfl rfl rfl rfl
      rfl rfl).2 hqs⟩
  have hrx : rxClock b s = rxShiftIn b s := by
    rcases rxClock_cases s b with ⟨_, h⟩ | ⟨h, _⟩ | ⟨h, _⟩
    · exact h
    · omega
    · omega
  have hre : rxEnabled s = true := by simp [rxEnabled, hen, hc, hst]
  have hrest : clockRest b .idle s = emit (.so .idle) (rxShiftIn b s) := by
    simp [clockRest, hre, hrx, settle_of_quiescent hqs]
  unfold clock
  rw [hp]
  simp only
  split
  · simp only [txClock, htx, txFirst, hfifo, hrest]
  · rw [hrest]

/-- A `Clock` event while deselected changes nothing but the record of outputs (R84, R98, R185). -/
theorem clock_deselected {s : State} (b : Bool) (hp : s.sys.phase = .running) (hc : s.csn = true)
    (hq : Quiescent s) : clock b s = .next (emit (.so .idle) s) := by
  simp [clock, hp, txEnabled, hc, clockRest, rxEnabled, settle_of_quiescent hq]

end Sys2Proof.Machine
end

