-- ==== Sys2Proof/Laws/PerInstr.lean ====
section
/-!
SUPPORT. One lemma per constructor of `Instr`: the frame of every instruction begins with its command byte, bit 7
first (`30_encoding.md` R60, R65), and is at least that long.
-/
namespace Sys2Proof.Laws.FrameStartsWithCommand

/-- The first eight frame bits are the command byte, and the decoder sees that byte. -/
def Statement (i : Instr) : Prop :=
  ∀ w : AddrBits, (encode w i).take 8 = byteBits i.cmdByte ∧ (encode w i).drop 8 = i.body w ∧ 8 ≤ (encode w i).length

theorem byteBits_length (b : Byte) : (byteBits b).length = 8 := rfl

theorem any (i : Instr) : Statement i := fun w =>
  ⟨by simp [encode, List.take_append, byteBits_length], by simp [encode, List.drop_append, byteBits_length],
    by simp [encode, byteBits_length]⟩

theorem read (args : ReadArgs) : Statement (.read args) := any _
theorem fastRead (args : ReadArgs) : Statement (.fastRead args) := any _
theorem write (args : WriteArgs) : Statement (.write args) := any _
theorem unknown (cmd : Byte) (rest : List Bool) : Statement (.unknown cmd rest) := any _

end Sys2Proof.Laws.FrameStartsWithCommand
end

