-- ==== Sys2Proof/Tests/Slice0.lean ====
section
/-!
SUPPORT. Tests: ill-formed terms refused, frames written out bit by bit from `30_encoding.md` and the vectors of
`95_test_vectors.md` decoded, one-step runs of each command with results taken from those vectors, and for every
statement with hypotheses a state and operands that meet them.
-/
namespace Sys2Proof.Tests
open Sys2Proof Sys2Proof.Machine

/-! ### WellFormed refuses -/

theorem test_wf_read_cut_too_long : (Instr.read (.cut (List.replicate 16 true))).wf .a16 = false := by decide
theorem test_wf_read_address_too_wide : (Instr.read (.full 65536 [])).wf .a16 = false := by decide
theorem test_wf_fastRead_cut_too_long : (Instr.fastRead (.cut (List.replicate 24 true))).wf .a24 = false := by decide
theorem test_wf_fastRead_address_too_wide : (Instr.fastRead (.full 65536 [])).wf .a16 = false := by decide
theorem test_wf_write_cut_too_long : (Instr.write (.cut (List.replicate 16 true))).wf .a16 = false := by decide
theorem test_wf_write_address_too_wide : (Instr.write (.full 65536 [] [])).wf .a16 = false := by decide
theorem test_wf_write_trail_too_long : (Instr.write (.full 0 [] (List.replicate 8 true))).wf .a16 = false := by decide
theorem test_wf_unknown_is_read : (Instr.unknown 0x03 []).wf .a16 = false := by decide
theorem test_wf_unknown_is_fastRead : (Instr.unknown 0x0B []).wf .a16 = false := by decide
theorem test_wf_unknown_is_write : (Instr.unknown 0x02 []).wf .a16 = false := by decide
theorem test_wf_admits : (Instr.write (.full 65535 [0xAA] (List.replicate 7 true))).wf .a16 = true := by decide
theorem test_addrBits_admitted :
    AddrBits.ofNat? 16 = some .a16 ∧ AddrBits.ofNat? 24 = some .a24 ∧ AddrBits.ofNat? 20 = none ∧
      AddrBits.bytes .a16 = 2 ∧ AddrBits.bytes .a24 = 3 := by decide

/-! ### Decoding, written out from R61 to R66 -/

/-- V10 with the address `0x1234` of V14 and one data clock. -/
theorem test_decode_read :
    decode .a16 [false, false, false, false, false, false, true, true,
      false, false, false, true, false, false, true, false, false, false, true, true, false, true, false, false, true] =
      .ok (.read (.full 0x1234 [true])) := by decide

/-- V11 with the address `0x0010` of V21, and the first clock of the dummy byte. -/
theorem test_decode_fastRead :
    decode .a16 [false, false, false, false, true, false, true, true,
      false, false, false, false, false, false, false, false, false, false, false, true, false, false, false, false,
      false] =
      .ok (.fastRead (.full 0x0010 [false])) := by decide

/-- V12, the frame of V26: address `0x1000`, the byte `0x55`, three trailing bits. -/
theorem test_decode_write :
    decode .a16 [false, false, false, false, false, false, true, false,
      false, false, false, true, false, false, false, false, false, false, false, false, false, false, false, false,
      false, true, false, true, false, true, false, true, true, true, true] =
      .ok (.write (.full 0x1000 [0x55] [true, true, true])) := by decide

/-- V13: `0x9F`. -/
theorem test_decode_unknown :
    decode .a16 [true, false, false, true, true, true, true, true, false] = .ok (.unknown 0x9F [false]) := by decide

/-- V15: the 24-bit address `0x123456`. -/
theorem test_decode_wide_address :
    decode .a24 [false, false, false, false, false, false, true, true, false, false, false, true, false, false, true,
      false, false, false, true, true, false, true, false, false, false, true, false, true, false, true, true, false] =
      .ok (.read (.full 0x123456 [])) := by decide

/-- The table's words. -/
theorem test_table_words :
    decodeTableWord 8 0x03 = some (.read (.full 0 (List.replicate 16 false))) ∧
      decodeTableWord 8 0x0B = some (.fastRead (.full 0 (List.replicate 16 false))) ∧
      decodeTableWord 8 0x02 = some (.write (.full 0 [0, 0] [])) ∧
      decodeTableWord 8 0x00 = some (.unknown 0 (List.replicate 32 false)) := by decide

/-! ### One step of each command -/

/-- The state after one step on a frame of these bytes and bits. -/
def after (s : State) (bytes : List Byte) (bits : List Bool) : Option State :=
  nextState? (step (s.setInbox [.frame (bytesBits bytes ++ bits)]))

/-- V3: `SO = II II II 00 01 02 03`. -/
theorem test_read_bytes :
    (after State.reset [0x03, 0x00, 0x00, 0, 0, 0, 0] []).map State.trace =
      some (idles 24 ++ driven (bytesBits [0x00, 0x01, 0x02, 0x03])) := by decide +kernel

/-- V66: at the end of V3 with `TX_DEPTH = 4` the send-side engine has made 5 transfers. -/
theorem test_read_ahead :
    (after State.reset [0x03, 0x00, 0x00, 0, 0, 0, 0] []).map (fun t => (t.sde.raddr, t.sde.count)) =
      some (0x0014, 65531) := by decide +kernel

/-- V21: after 24 `IDLE` and 8 free values the bytes `10 11`. -/
theorem test_fastRead_bytes :
    (after State.reset [0x0B, 0x00, 0x10, 0, 0, 0] []).map (fun t => (t.trace.take 24, t.trace.drop 32)) =
      some (idles 24, driven (bytesBits [0x10, 0x11])) := by decide +kernel

/-- V32: a FAST_READ cut in the address reverts its patches. -/
theorem test_fastRead_cut_reverts :
    (after State.reset [0x0B, 0x12] []).map (fun t => (t.tx.jump, t.tx.pull, t.sde.unit)) =
      some (.normal, .p32, .w32Bswap) := by decide +kernel

/-- V26: the byte is stored, the three trailing bits are not. -/
theorem test_write_trailing_bits :
    (after State.reset [0x02, 0x10, 0x00, 0x55] [true, true, true]).map
      (fun t => (readMem t 0x1000, readMem t 0x1001)) = some (0x55, 0x01) := by decide +kernel

/-- V28: a WRITE off the end of the array does not wrap and records each byte. -/
theorem test_write_out_of_range :
    (after State.reset [0x02, 0xFF, 0xFF, 0x11, 0x22, 0x33] []).map
      (fun t => (readMem t 0xFFFF, readMem t 0, t.faults)) =
      some (0x11, 0x00, [.writeOutOfRange 65536, .writeOutOfRange 65537]) := by decide +kernel

/-- V29: `9F 00 00 00` returns 32 `IDLE`. -/
theorem test_unknown_idle :
    (after State.reset [0x9F, 0, 0, 0] []).map State.trace = some (idles 32) := by decide +kernel

/-- R173, R133: the array and the engines are as before. -/
theorem test_unknown_changes_nothing :
    (after State.reset [0x9F, 0, 0, 0] []).map (fun t => (t.mem, t.sde, t.rve, t.faults)) =
      some (State.reset.mem, State.reset.sde, State.reset.rve, []) := by decide +kernel

/-- The table's READ runs as the first instruction after reset: bytes 0 and 1 of the pattern. -/
theorem test_table_word_runs :
    (nextState? (step (State.reset.withFetchWord 8 0x03))).map (fun t => t.trace.drop 24) =
      some (driven (bytesBits [0x00, 0x01])) := by decide +kernel

/-- V64: a unit at the end of the array: two bytes of it, two draws, no wrap, no fault. -/
theorem test_sde_end_of_array :
    (sdeStep { State.reset with sde := ⟨true, 0xFFFE, 10, .w32Bswap⟩ }).map
      (fun t => (t.tx.fifo.map (List.take 2), t.sde.raddr, t.draws, t.faults)) =
      some ([[0xFE, 0xFF]], 0x10002, 2, []) := by decide +kernel

/-! ### States the witnesses use -/

/-- A WRITE in its data phase, after V51: address `0x00FF`, no data yet. -/
def inWrite : State := { State.reset with
  csn := false
  rx := ⟨true, .data, [], [], false, true⟩
  rve := ⟨true, 0x00FF, 4294967296⟩
  disp := ⟨.awaitDeselect, 0, some .write⟩ }

/-- A WRITE whose last bytes are queued when the deselect is observed, as V82. -/
def draining : State := { inWrite with
  csn := true
  rx := ⟨true, .data, [], [⟨8, 0xCC⟩, ⟨8, 0xDD⟩], false, true⟩
  disp := ⟨.awaitDeselect, 2, some .write⟩ }

/-- A WRITE with one byte queued and one held by the stalled shifter. -/
def stalledWrite : State := { inWrite with
  rx := ⟨true, .data, List.replicate 8 true, [⟨8, 0xCC⟩], true, true⟩ }

/-- A FAST_READ waiting for its address, patched. -/
def inFastArm : State := { State.reset with
  csn := false
  rx := ⟨true, .addr, [], [], false, false⟩
  tx := { Tx.initial with jump := .fast, pull := .p8 }
  sde := ⟨false, 0, 0, .w8⟩
  disp := ⟨.fastReadArm, 0, some .fastRead⟩ }

/-- A WRITE waiting for its address. -/
def inWriteArm : State := { State.reset with
  csn := false
  rx := ⟨true, .addr, [], [], false, false⟩
  disp := ⟨.writeArm, 0, some .write⟩ }

/-- The machine before setup. -/
def unset : State := { State.reset with sys := ⟨.preSetup, false⟩ }

/-- The 24-bit build of V4. -/
def wide : State := { State.reset with cfg := { Config.default with addrBits := .a24, memSize := 0x200000 } }

theorem inv_inWrite : Inv inWrite := ⟨by decide, by decide, by decide, fun _ =>
  ⟨by decide, by decide, by decide, by decide, by decide, by decide, by decide, by decide, by decide⟩⟩
theorem inv_inWrite_high (h : Nat) (hh : h < 2) : Inv { inWrite with csn := true, disp := ⟨.awaitDeselect, h, some .write⟩ } := by
  interval_cases h <;> exact ⟨by decide, by decide, by decide, fun _ =>
    ⟨by decide, by decide, by decide, by decide, by decide, by decide, by decide, by decide, by decide⟩⟩
theorem inv_draining : Inv draining := ⟨by decide, by decide, by decide, fun _ =>
  ⟨by decide, by decide, by decide, by decide, by decide, by decide, by decide, by decide, by decide⟩⟩
theorem inv_stalledWrite : Inv stalledWrite := ⟨by decide, by decide, by decide, fun _ =>
  ⟨by decide, by decide, by decide, by decide, by decide, by decide, by decide, by decide, by decide⟩⟩
theorem inv_inFastArm : Inv inFastArm := ⟨by decide, by decide, by decide, fun _ =>
  ⟨by decide, by decide, by decide, by decide, by decide, by decide, by decide, by decide, by decide⟩⟩
theorem inv_inWriteArm : Inv inWriteArm := ⟨by decide, by decide, by decide, fun _ =>
  ⟨by decide, by decide, by decide, by decide, by decide, by decide, by decide, by decide, by decide⟩⟩

/-- An outcome whose next state is there answers it. -/
theorem exists_next {o : Host.Outcome State Fault Refusal} (h : (nextState? o).isSome = true) : ∃ t, o = .next t := by
  cases o
  · exact ⟨_, rfl⟩
  · cases h
  · cases h

/-! ### Witnesses: the hypotheses of each statement are met -/

theorem witness_DecodeEncodeRoundTrip :
    (Instr.write (.full 65535 [0xAA] (List.replicate 7 true))).wf .a16 = true ∧
      (Instr.read (.cut (List.replicate 15 true))).wf .a16 = true ∧
      (Instr.fastRead (.full 16777215 [true])).wf .a24 = true ∧ (Instr.unknown 0xFF []).wf .a24 = true := by decide
theorem witness_DecodedFrameReencodes :
    decode .a16 (byteBits 0x02 ++ List.replicate 25 true) = .ok (.write (.full 65535 [0xFF] [true])) := by decide
theorem witness_CommandByteSelectsClass :
    (255 < 256 ∧ classify .a24 255 = .unknown) ∧ classify .a16 3 = .read ∧ classify .a24 11 = .fastRead ∧
      classify .a16 2 = .write := by decide
theorem witness_OnlyShortFramesAreRejected :
    decode .a16 [] = .error .emptyFrame ∧ decode .a16 [true] = .error .shortCommand ∧
      decode .a16 (List.replicate 7 true) = .error .shortCommand ∧
      decode .a16 (List.replicate 8 true) = .ok (.unknown 0xFF []) := by decide
theorem witness_DataBytesReadBackFromWire : (List.replicate 7 true).length < 8 := by decide
theorem witness_StepRunsDecodedInstruction :
    (State.reset.setInbox [.frame (byteBits 0x9F)]).inbox = .frame (byteBits 0x9F) :: [] ∧
      decode State.reset.cfg.addrBits (byteBits 0x9F) = .ok (.unknown 0x9F []) := by decide
theorem witness_FrameStepIsItsEvents :
    (State.reset.setInbox [.frame [true]]).inbox = .frame [true] :: [] := rfl
theorem witness_DataOutIgnoresSameEdgeDataIn :
    ∃ t u, clock true inWrite = .next t ∧ clock false inWrite = .next u :=
  let ⟨t, ht⟩ := exists_next (o := clock true inWrite) (by decide +kernel)
  let ⟨u, hu⟩ := exists_next (o := clock false inWrite) (by decide +kernel)
  ⟨t, u, ht, hu⟩
theorem witness_ReadTransaction :
    CleanControl State.reset ∧ State.reset.cfg.wf ∧ 65535 < 2 ^ State.reset.cfg.addrBits.bits := by decide
theorem witness_FastReadTransaction :
    CleanControl wide ∧ wide.cfg.wf ∧ 16777215 < 2 ^ wide.cfg.addrBits.bits := by decide
theorem witness_WriteTransaction :
    CleanControl State.reset ∧ State.reset.cfg.wf ∧ 65535 < 2 ^ State.reset.cfg.addrBits.bits ∧
      (List.replicate 7 true).length < 8 ∧ [(0x11 : Byte), 0x22].length ≤ State.reset.cfg.rveXferCount := by decide
theorem witness_UnknownTransaction :
    CleanControl State.reset ∧ State.reset.cfg.wf ∧ unknownCmdOk 0x9F = true := by decide
theorem witness_CutAddressTransaction :
    CleanControl State.reset ∧ State.reset.cfg.wf ∧ (List.replicate 15 true).length < State.reset.cfg.addrBits.bits ∧
      unknownCmdOk 0 = true := by decide
theorem witness_EveryCommandReturnsToClean :
    CleanControl wide ∧ wide.cfg.wf ∧ (Instr.read (.full 0x123456 [true])).wf wide.cfg.addrBits = true ∧
      (Instr.unknown 0x9F []).wf wide.cfg.addrBits = true := by decide
theorem witness_WriteThenReadYieldsData :
    CleanControl State.reset ∧ State.reset.cfg.wf ∧ 0xFFFE < 2 ^ State.reset.cfg.addrBits.bits ∧
      0xFFFE + [(0xAA : Byte), 0xBB].length ≤ State.reset.cfg.memSize ∧
      [(0xAA : Byte), 0xBB].length ≤ State.reset.cfg.rveXferCount ∧
      [(0xAA : Byte), 0xBB].length ≤ 4 * readXferCount ∧
      (List.replicate 16 true).length = 8 * [(0xAA : Byte), 0xBB].length := by decide
theorem witness_FastReadYieldsWhatReadYields :
    CleanControl State.reset ∧ State.reset.cfg.wf ∧ 0xFFFE < 2 ^ State.reset.cfg.addrBits.bits ∧
      0xFFFE + 2 ≤ State.reset.cfg.memSize ∧ 2 ≤ readXferCount ∧ (List.replicate 16 true).length = 8 * 2 ∧
      (List.replicate 24 true).length = 8 + 8 * 2 := by decide
theorem witness_UnknownDoesNotInterfere :
    ∃ t, CleanControl State.reset ∧ State.reset.cfg.wf ∧ unknownCmdOk 0x9F = true ∧
      exec (.write (.full 0x00FF [0xAA] [])) State.reset = .next t :=
  let ⟨t, ht⟩ := exists_next (o := exec (.write (.full 0x00FF [0xAA] [])) State.reset) (by decide +kernel)
  ⟨t, by decide, by decide, by decide, ht⟩
theorem witness_WideAddressReadsPattern :
    CleanControl wide ∧ wide.cfg.wf ∧ wide.cfg.addrBits = .a24 ∧ wide.cfg.preserve = false ∧ wide.mem = [] ∧
      0x123458 < wide.cfg.memSize ∧ (List.replicate 24 true).length = 24 := by decide
theorem witness_EmptyFrameChangesNothing : CleanControl wide := by decide
theorem witness_ShortCommandIsRecorded :
    CleanControl State.reset ∧ 1 ≤ [false].length ∧ [false].length ≤ 7 ∧ 1 ≤ (List.replicate 7 true).length ∧
      (List.replicate 7 true).length ≤ 7 := by decide
/-- One state for each clause: selected, first high sample, second high sample, and the two address waits. -/
theorem witness_FilterNeedsTwoHighSamples :
    (Inv inWrite ∧ inWrite.sys.phase = .running ∧ Quiescent inWrite ∧ Waiting inWrite ∧ inWrite.csn = false) ∧
    (∀ h < 2, Inv { inWrite with csn := true, disp := ⟨.awaitDeselect, h, some .write⟩ } ∧
      Quiescent { inWrite with csn := true, disp := ⟨.awaitDeselect, h, some .write⟩ } ∧
      Waiting { inWrite with csn := true, disp := ⟨.awaitDeselect, h, some .write⟩ }) ∧
    (Inv inFastArm ∧ Quiescent inFastArm ∧ Waiting inFastArm) ∧
    (Inv inWriteArm ∧ Quiescent inWriteArm ∧ Waiting inWriteArm) :=
  ⟨⟨inv_inWrite, rfl, by decide, by decide, rfl⟩,
    fun h hh => ⟨inv_inWrite_high h hh, by interval_cases h <;> decide, .inl rfl⟩,
    ⟨inv_inFastArm, by decide, by decide⟩, ⟨inv_inWriteArm, by decide, by decide⟩⟩
theorem witness_SampleScheduleIsIrrelevant :
    CleanControl State.reset ∧ ∀ e ∈ [Event.clock true, .sample, .sample, .clock false], e = .sample ∨ ∃ b, e = .clock b := by
  refine ⟨by decide, ?_⟩
  simp
theorem witness_GlitchIsInvisible :
    (inWrite.sys.phase = .running ∧ inWrite.csn = false ∧ inWrite.disp.hi = 0 ∧ Quiescent inWrite ∧ Waiting inWrite) ∧
    (inFastArm.csn = false ∧ inFastArm.disp.hi = 0 ∧ Quiescent inFastArm ∧ Waiting inFastArm) := by decide
theorem witness_DeselectedClocksAreIgnored :
    State.reset.sys.phase = .running ∧ State.reset.csn = true ∧ Quiescent State.reset := by decide
theorem witness_DeselectReachesIdle :
    Inv { inWrite with csn := true, disp := ⟨.awaitDeselect, 0, some .write⟩ } ∧
      Quiescent { inWrite with csn := true } ∧ inWrite.sys.phase = .running ∧ inWrite.inbox = [] :=
  ⟨inv_inWrite_high 0 (by decide), by decide, rfl, rfl⟩
theorem witness_SelectedTransactionNeverEnds :
    inWrite.csn = false ∧ inWrite.disp.hi = 0 ∧ Quiescent inWrite ∧ inWrite.inbox = [] := by decide
theorem witness_InboundShifterPushesWord :
    State.reset.rx.isr = [] ∧ rxFull State.reset = false ∧
      (byteBits 0x02).length = rxTarget State.reset.cfg.addrBits State.reset.rx.ip := by decide
theorem witness_FullQueueStallsInboundShifter :
    let s : State := { inWrite with
      rx := ⟨true, .data, List.replicate 7 true, List.replicate 4 ⟨8, 0⟩, false, true⟩ }
    rxFull s = true ∧ rxCnt s + 1 = rxTarget s.cfg.addrBits s.rx.ip ∧ s.rx.fifo.length = s.cfg.rxDepth ∧
      1 ≤ s.cfg.rxDepth := by decide
theorem witness_NormalUnitLeavesMsbFirst :
    let s : State := { State.reset with tx := { Tx.initial with fifo := [[0xAA, 0xBB, 0xCC, 0xDD]] } }
    s.tx.ip = .entry ∧ s.tx.jump = .normal ∧ s.tx.pull = .p32 ∧ s.tx.fifo = [0xAA, 0xBB, 0xCC, 0xDD] :: [] ∧
      [(0xAA : Byte), 0xBB, 0xCC, 0xDD].length = 4 := by decide
theorem witness_FastUnitLeavesAfterDummyByte :
    let s : State := { inFastArm with tx := { inFastArm.tx with fifo := [[0x10], [0x11]] } }
    s.tx.ip = .entry ∧ s.tx.jump = .fast ∧ s.tx.pull = .p8 ∧ s.tx.fifo = [0x10] :: [[0x11]] := by decide
/-- The last unit inside the array, the unit of V64 across its end, and one beyond it. -/
theorem witness_SendEngineQueuesUnit :
    ∀ a ∈ [65532, 65534, 65536],
      let s : State := { State.reset with sde := ⟨true, a, 1, .w32Bswap⟩ }
      s.sde.busy = true ∧ 0 < s.sde.count ∧ txFull s = false ∧ 0 < s.sde.unit.bytes := by decide
theorem witness_HandOffStartsSendEngine :
    let s : State := { State.reset with rx := ⟨true, .data, [], [⟨16, 0x00FF⟩], false, true⟩, hoe := ⟨true⟩ }
    s.rx.fifo = ⟨16, 0x00FF⟩ :: [] ∧ s.hoe.started = true ∧ s.rx.addrDone = true := by decide
/-- The last byte of the array, and the first offset beyond it (V72). -/
theorem witness_ReceiveEngineStoresByte :
    (let s : State := { inWrite with rx := { inWrite.rx with fifo := [⟨8, 0x11⟩] }, rve := ⟨true, 65535, 1⟩ }
     s.rx.fifo = ⟨8, 0x11⟩ :: [] ∧ s.rve.busy = true ∧ 0 < s.rve.count ∧ s.rve.waddr < s.cfg.memSize) ∧
    (let s : State := { inWrite with rx := { inWrite.rx with fifo := [⟨8, 0x22⟩] }, rve := ⟨true, 65536, 1⟩ }
     s.rx.fifo = ⟨8, 0x22⟩ :: [] ∧ s.rve.busy = true ∧ 0 < s.rve.count ∧ ¬ s.rve.waddr < s.cfg.memSize) := by decide
/-- Two agents enabled together, and a quiescent state one sample before the deselect is observed. -/
theorem witness_InternalStepOrderIsIrrelevant :
    (∃ s1 s2, Inv stalledWrite ∧ stalledWrite.sys.phase = .running ∧ stalledWrite.disp.hi < 2 ∧ rxUnstall ∈ agents ∧
      rveStep ∈ agents ∧ rxUnstall stalledWrite = some s1 ∧ rveStep stalledWrite = some s2) ∧
    (let s : State := { inWrite with csn := true, disp := ⟨.awaitDeselect, 1, some .write⟩ }
     Inv s ∧ s.sys.phase = .running ∧ Quiescent s ∧ Waiting s ∧ s.csn = true ∧ s.disp.hi = 1) :=
  ⟨⟨_, _, inv_stalledWrite, rfl, by decide, by simp [agents], by simp [agents], rfl, rfl⟩,
    inv_inWrite_high 1 (by decide), rfl, by decide, .inl rfl, rfl, rfl⟩
theorem witness_StepKeepsQuiescence : ∃ t, Quiescent inWrite ∧ step inWrite = .next t :=
  ⟨_, by decide, rfl⟩
theorem witness_DecodeGoesToArm :
    let s : State := { State.reset with
      rx := ⟨true, .addr, [], [⟨8, 0x0B⟩], false, false⟩, disp := ⟨.decode, 0, none⟩ }
    s.disp.state = .decode ∧ s.rx.fifo = ⟨8, 0x0B⟩ :: [] := by decide
theorem witness_ReadArmStartsHandOff :
    ({ inWrite with disp := ⟨.readArm, 0, some .read⟩ } : State).disp.state = .readArm := rfl
theorem witness_IgnoreUnknownWritesNothing :
    ({ inWrite with disp := ⟨.ignoreUnknown, 0, some .unknown⟩ } : State).disp.state = .ignoreUnknown := rfl
/-- One state for each clause, with an empty queue where the clause says nothing of it. -/
theorem witness_AddressWaitTriggersEngine :
    let f : List RxEntry := [⟨16, 0x00FF⟩]
    let a : State := { inFastArm with tx := Tx.initial }
    let b : State := { inFastArm with rx := { inFastArm.rx with fifo := f }, disp := ⟨.fastReadArm, 1, some .fastRead⟩ }
    let c : State := { inWriteArm with rx := { inWriteArm.rx with fifo := f }, disp := ⟨.writeArm, 1, some .write⟩ }
    let g : State := { inFastArm with disp := ⟨.fastReadArm, 2, some .fastRead⟩ }
    let d : State := { inWriteArm with disp := ⟨.writeArm, 2, some .write⟩ }
    (a.rx.fifo = [] ∧ a.disp.state = .fastReadArm ∧ a.tx.jump = .normal) ∧
    (b.rx.fifo = f ∧ b.disp.state = .fastReadArm ∧ b.tx.jump = .fast ∧ b.disp.hi < 2) ∧
    (c.rx.fifo = f ∧ c.disp.state = .writeArm ∧ c.disp.hi < 2) ∧
    (inWriteArm.rx.fifo = [] ∧ inWriteArm.disp.hi < 2 ∧ inWriteArm.disp.state = .writeArm) ∧
    (inFastArm.rx.fifo = [] ∧ inFastArm.disp.hi < 2 ∧ inFastArm.disp.state = .fastReadArm ∧ inFastArm.tx.jump = .fast) ∧
    (g.rx.fifo = [] ∧ g.disp.state = .fastReadArm ∧ g.tx.jump = .fast ∧ g.disp.hi = 2 ∧ g.disp.cmd = some .fastRead) ∧
    (d.rx.fifo = [] ∧ d.disp.state = .writeArm ∧ d.disp.hi = 2 ∧ d.disp.cmd = some .write ∧ d.rve.busy = false) := by
  decide
theorem witness_DrainStoresEveryQueuedByte :
    Inv draining ∧ draining.sys.phase = .running ∧ draining.csn = true ∧ draining.disp.state = .awaitDeselect ∧
      draining.disp.cmd = some .write ∧ draining.disp.hi = 2 ∧ draining.rve.busy = true ∧
      draining.rx.stalled = false ∧ draining.rx.fifo.length ≤ draining.rve.count :=
  ⟨inv_draining, rfl, rfl, rfl, rfl, rfl, rfl, rfl, by decide⟩
theorem witness_ReadExitAbortsAndCancels :
    let s : State := { State.reset with hoe := ⟨true⟩, disp := ⟨.awaitDeselect, 2, some .read⟩ }
    s.disp.state = .awaitDeselect ∧ s.disp.hi = 2 ∧ s.disp.cmd = some .read := by decide
/-- Both places the exit can be taken from. -/
theorem witness_FastReadExitRevertsPatches :
    (let s : State := { inFastArm with disp := ⟨.awaitDeselect, 2, some .fastRead⟩ }
     s.disp.state = .awaitDeselect ∧ s.disp.hi = 2 ∧ s.disp.cmd = some .fastRead) ∧
    (let s : State := { inFastArm with disp := ⟨.fastReadArm, 2, some .fastRead⟩ }
     s.disp.state = .fastReadArm ∧ s.tx.jump = .fast ∧ s.disp.hi = 2 ∧ s.disp.cmd = some .fastRead) := by decide
theorem witness_PipelineResetEmptiesBothPaths :
    ({ draining with disp := ⟨.resetPipelines, 2, some .write⟩ } : State).disp.state = .resetPipelines := rfl
theorem witness_OnlyWriteDataChangesMemory :
    let s : State := { inWrite with rx := { inWrite.rx with isr := List.replicate 7 true } }
    ∃ t, Inv s ∧ s.sys.phase = .running ∧ Quiescent s ∧ doEvent (.clock false) s = .next t ∧
      (∀ i v, Event.clock false ≠ .hostWrite i v) ∧ t.mem ≠ s.mem :=
  ⟨_, ⟨by decide, by decide, by decide, fun _ =>
    ⟨by decide, by decide, by decide, by decide, by decide, by decide, by decide, by decide, by decide⟩⟩, rfl, by decide,
    rfl, by simp, by decide +kernel⟩
/-- The last offset of the array and the first beyond it. -/
theorem witness_HostAccessInWindow :
    State.reset.sys.phase = .running ∧ State.reset.disp.state = .idle ∧ State.reset.csn = true ∧
      State.reset.rx.isr = [] ∧ 65535 < State.reset.cfg.memSize ∧ State.reset.cfg.memSize ≤ 65536 := by decide
/-- Before setup, and each way out of the window. -/
theorem witness_HostAccessOutsideWindowRaces :
    unset.sys.phase = .preSetup ∧ State.reset.sys.phase = .running ∧
    (inWrite.sys.phase = .running ∧ inWrite.disp.state ≠ .idle) ∧
    (State.reset.setCsn false).csn = false ∧
    ({ State.reset with rx := { Rx.initial with isr := [true] } } : State).rx.isr ≠ [] := by decide
theorem witness_SetupReachesCleanState : unset.sys.phase = .preSetup ∧ unset.csn = true := by decide
theorem witness_FailedClaimHaltsForEver :
    unset.sys.phase = .preSetup ∧
      ({ State.reset with sys := ⟨.halted, false⟩ } : State).sys.phase = .halted ∧
      ∀ ok, Event.clock true ≠ .setup ok := by decide
theorem witness_TrafficBeforeSetupIsRecorded :
    ∃ t u v, unset.sys.phase = .preSetup ∧ doEvent .selectFall unset = .next t ∧
      doEvent (.clock true) unset = .next u ∧ doEvent (.setup true) (unset.setCsn false) = .next v ∧
      (unset.setCsn false).csn = false :=
  ⟨_, _, _, rfl, rfl, rfl, rfl, rfl⟩
theorem witness_SecondSetupIsRefused : State.reset.sys.phase ≠ .preSetup := by decide
theorem witness_StepKeepsInvariant : ∃ t, Inv inWrite ∧ step inWrite = .next t := ⟨_, inv_inWrite, rfl⟩
theorem witness_InvariantNeverFaults : Inv inFastArm := inv_inFastArm
theorem witness_FaultsOnlyGrow : ∃ t, step inWrite = .next t := ⟨_, rfl⟩
theorem witness_BuildAndPhaseAreStable :
    (∃ t, step State.reset = .next t) ∧ State.reset.sys.phase = .running ∧ State.reset.sys.prio = true ∧
      (∃ t, step { State.reset with sys := ⟨.halted, false⟩ } = .next t) :=
  ⟨⟨_, rfl⟩, rfl, rfl, ⟨_, rfl⟩⟩
theorem witness_IdleIsQuietAndUnpatched :
    let s : State := { inWrite with csn := true, disp := ⟨.awaitDeselect, 1, some .write⟩ }
    ∃ t, Inv s ∧ Quiescent s ∧ step s = .next t ∧ t.sys.phase = .running ∧ t.disp.state = .idle :=
  ⟨_, inv_inWrite_high 1 (by decide), by decide, rfl, by decide +kernel, by decide +kernel⟩

end Sys2Proof.Tests
end

section
/-!
A step by its input: time passes, an event happens, or the events of a frame happen.
-/
namespace Sys2Proof.Machine

/-- The bits a step clocks for a frame: those of the instruction the frame decodes to, or its own. -/
def clockedBits (w : AddrBits) (bits : List Bool) : List Bool :=
  match decode w bits with
  | .ok i => encode w i
  | .error _ => bits

theorem step_of_inbox_nil {s : State} (h : s.inbox = []) : step s = .next (sample s) := by
  unfold step; rw [h]; rfl

theorem step_of_inbox_event {s : State} {e : Event} {rest : List Input} (h : s.inbox = .event e :: rest) :
    step s = doEvent e (s.setInbox rest) := by
  unfold step; rw [h]

theorem step_of_inbox_frame {s : State} {bits : List Bool} {rest : List Input} (h : s.inbox = .frame bits :: rest) :
    step s = transact (clockedBits s.cfg.addrBits bits) (s.setInbox rest) := by
  unfold step clockedBits
  cases hd : decode s.cfg.addrBits bits with
  | ok i => simp [h, hd, exec_eq_transact]
  | error r => simp [h, hd]

end Sys2Proof.Machine
end

section
/-!
The build and the system phase (`00_scope.md` R6, `10_state.md` R36, `70_reset_and_hazards.md` R177): no internal step
and no event touches either, except the `Setup` event, which sets `sys` once.
-/
namespace Sys2Proof.Machine

/-! ### Internal steps and events leave the build and `sys` alone -/

theorem endEntry_keeps_cfg_sys {s t : State} (h : endEntry s = some t) : t.cfg = s.cfg ∧ t.sys = s.sys := by
  rcases endEntry_cases h with ⟨-, rfl⟩ | ⟨-, rfl⟩ | ⟨-, -, rfl⟩ | ⟨-, rfl⟩ <;> simp

theorem dispStep_keeps_cfg_sys {s t : State} (h : dispStep s = some t) : t.cfg = s.cfg ∧ t.sys = s.sys := by
  rcases dispStep_cases h with ⟨-, -, rfl⟩ | ⟨e, es, -, -, rfl⟩ | ⟨-, rfl⟩ | ⟨-, rfl⟩ | ⟨-, -, rfl⟩ |
    ⟨e, es, -, -, -, -, rfl⟩ | ⟨e, es, -, -, -, rfl⟩ | ⟨-, -, hend⟩ | ⟨-, rfl⟩
  pick_goal 8
  · exact endEntry_keeps_cfg_sys hend
  all_goals simp

theorem internal_keeps_cfg_sys {s t : State} (h : internal s = some t) : t.cfg = s.cfg ∧ t.sys = s.sys := by
  obtain ⟨-, h | h | h | h | h⟩ := internal_cases h
  · obtain ⟨-, -, rfl⟩ := rxUnstall_eq_some.1 h
    simp
  · obtain ⟨e, es, -, -, -, rfl⟩ := hoeStep_eq_some.1 h
    simp
  · obtain ⟨-, -, -, rfl⟩ := sdeStep_eq_some.1 h
    simp [sdeNext]
  · obtain ⟨e, es, -, -, -, rfl⟩ := rveStep_eq_some.1 h
    simp [rveNext]
  · exact dispStep_keeps_cfg_sys h

@[simp] theorem settle_cfg_sys (s : State) : (settle s).cfg = s.cfg ∧ (settle s).sys = s.sys :=
  settle_induction (P := fun u => u.cfg = s.cfg ∧ u.sys = s.sys)
    (fun _ _ ⟨hcfg, hsys⟩ h =>
      ⟨(internal_keeps_cfg_sys h).1.trans hcfg, (internal_keeps_cfg_sys h).2.trans hsys⟩) ⟨rfl, rfl⟩

@[simp] theorem dispSample_cfg_sys (s : State) : (dispSample s).cfg = s.cfg ∧ (dispSample s).sys = s.sys := by
  rcases dispSample_spec s with ⟨-, h⟩ | ⟨-, h⟩ <;> simp [h]

@[simp] theorem rxClock_cfg_sys (b : Bool) (s : State) : (rxClock b s).cfg = s.cfg ∧ (rxClock b s).sys = s.sys := by
  rw [rxClock_only_rx]; simp

theorem txClock_keeps_cfg_sys {s t : State} {o : So} (h : txClock s = .ok (o, t)) :
    t.cfg = s.cfg ∧ t.sys = s.sys := by
  rw [txClock_only_tx h]; simp

@[simp] theorem clockRest_cfg_sys (b : Bool) (o : So) (s : State) :
    (clockRest b o s).cfg = s.cfg ∧ (clockRest b o s).sys = s.sys := by
  unfold clockRest; split <;> simp

theorem clock_keeps_cfg_sys {b : Bool} {s t : State} (h : clock b s = .next t) :
    t.cfg = s.cfg ∧ t.sys = s.sys := by
  unfold clock at h
  split at h
  case h_1 => cases h; simp
  case h_2 => cases h; simp
  case h_3 =>
    split at h
    · split at h
      · rename_i r hr
        cases h
        simpa using txClock_keeps_cfg_sys hr
      · cases h
    · cases h; simp

@[simp] theorem selectFall_cfg_sys (s : State) : (selectFall s).cfg = s.cfg ∧ (selectFall s).sys = s.sys := by
  unfold selectFall; split <;> simp

@[simp] theorem selectRise_cfg_sys (s : State) : (selectRise s).cfg = s.cfg ∧ (selectRise s).sys = s.sys := by
  unfold selectRise; repeat' split
  all_goals simp

@[simp] theorem sample_cfg_sys (s : State) : (sample s).cfg = s.cfg ∧ (sample s).sys = s.sys := by
  unfold sample; split <;> simp

@[simp] theorem hostRead_cfg_sys (i : Nat) (s : State) :
    (hostRead i s).cfg = s.cfg ∧ (hostRead i s).sys = s.sys := by
  unfold hostRead hostDraw; repeat' split
  all_goals simp

@[simp] theorem hostWrite_cfg_sys (i : Nat) (v : Byte) (s : State) :
    (hostWrite i v s).cfg = s.cfg ∧ (hostWrite i v s).sys = s.sys := by
  unfold hostWrite; repeat' split
  all_goals simp

/-! ### Setup sets `sys`, once -/

/-- What a step can do to the build and to `sys`: nothing, except that before setup the machine may be launched with
the priority directive installed (R175), or halted (R152). -/
def SysSetAtMostOnce (s t : State) : Prop :=
  t.cfg = s.cfg ∧
    (t.sys = s.sys ∨
      s.sys.phase = .preSetup ∧ (t.sys = ⟨.running, true⟩ ∨ t.sys = { s.sys with phase := .halted }))

theorem SysSetAtMostOnce.of_eq {s t : State} (h : t.cfg = s.cfg ∧ t.sys = s.sys) : SysSetAtMostOnce s t :=
  ⟨h.1, .inl h.2⟩

/-- The two changes end the phase before setup, so they do not follow one another. -/
theorem SysSetAtMostOnce.trans {s t u : State} (hst : SysSetAtMostOnce s t) (htu : SysSetAtMostOnce t u) :
    SysSetAtMostOnce s u := by
  obtain ⟨hcfg, hsys⟩ := hst
  obtain ⟨hcfg', hsys'⟩ := htu
  refine ⟨hcfg'.trans hcfg, ?_⟩
  rcases hsys with hsame | ⟨hpre, hset | hset⟩
  · rwa [hsame] at hsys'
  · exact .inr ⟨hpre, .inl (by simpa [hset] using hsys')⟩
  · exact .inr ⟨hpre, .inr (by simpa [hset] using hsys')⟩

theorem setupRun_cfg (ok : Bool) (s : State) : (setupRun ok s).cfg = s.cfg := by
  unfold setupRun setupHalt setupCheckBus setupLaunch setupConfigure setupFill
  repeat' split
  all_goals simp

/-- A successful setup launches the core; a failed claim halts the machine. -/
theorem setupRun_sys (ok : Bool) (s : State) :
    (setupRun ok s).sys = if ok then ⟨.running, true⟩ else { s.sys with phase := .halted } := by
  unfold setupRun setupHalt setupCheckBus setupLaunch setupConfigure setupFill
  repeat' split
  all_goals simp

theorem setup_sets_sys_once {ok : Bool} {s t : State} (h : setup ok s = .next t) : SysSetAtMostOnce s t := by
  unfold setup at h
  split at h
  case h_1 hpre =>
    cases h
    refine ⟨by simp [setupRun_cfg], .inr ⟨hpre, ?_⟩⟩
    cases ok <;> simp [setupRun_sys]
  case h_2 => cases h
  case h_3 => cases h

/-! ### Every step -/

theorem doEvent_sets_sys_once {e : Event} {s t : State} (h : doEvent e s = .next t) : SysSetAtMostOnce s t := by
  cases e with
  | setup ok => exact setup_sets_sys_once h
  | clock b => exact .of_eq (clock_keeps_cfg_sys h)
  | selectFall => cases h; exact .of_eq (by simp)
  | selectRise => cases h; exact .of_eq (by simp)
  | sample => cases h; exact .of_eq (by simp)
  | hostRead i => cases h; exact .of_eq (by simp)
  | hostWrite i v => cases h; exact .of_eq (by simp)

theorem doEvents_sets_sys_once {es : List Event} {s t : State} (h : doEvents es s = .next t) :
    SysSetAtMostOnce s t := by
  induction es generalizing s with
  | nil => cases h; exact .of_eq ⟨rfl, rfl⟩
  | cons e es ih =>
    obtain ⟨u, hu, ht⟩ := andThen_eq_next.1 h
    exact (doEvent_sets_sys_once hu).trans (ih ht)

theorem step_sets_sys_once {s t : State} (h : step s = .next t) : SysSetAtMostOnce s t := by
  cases hin : s.inbox with
  | nil =>
    rw [step_of_inbox_nil hin] at h
    cases h
    exact .of_eq (by simp)
  | cons input rest =>
    cases input with
    | event e =>
      rw [step_of_inbox_event hin] at h
      exact doEvent_sets_sys_once (s := s.setInbox rest) h
    | frame bits =>
      rw [step_of_inbox_frame hin] at h
      exact doEvents_sets_sys_once (s := s.setInbox rest) h

/-- Settles O58: `sys` is set only before setup, and then `prio` is installed or kept. -/
theorem buildAndPhaseAreStable : Obligations.BuildAndPhaseAreStable := by
  intro s t h
  obtain ⟨hcfg, hsame | ⟨hpre, hset | hset⟩⟩ := step_sets_sys_once h
  · exact ⟨hcfg, fun _ => hsame, fun _ => hsame, fun hp => hsame ▸ hp⟩
  · exact ⟨hcfg, by simp [hpre], by simp [hpre], by simp [hset]⟩
  · exact ⟨hcfg, by simp [hpre], by simp [hpre], by simp [hset]⟩

end Sys2Proof.Machine
end

section
/-!
Builds that differ in the idle level, the timing and the wiring only (`00_scope.md` R6, `93_implementation_defined.md`
U23): every operation of the machine commutes with `State.rewire`. The lemmas move `rewire` outward; those by `rfl` say
that an operation reads no replaced parameter, the others follow the operation's branches.
-/
namespace Sys2Proof.Machine

variable (s : State) (l : LineLevel) (t : Timing) (p : Pins) (n : Instances)

/-! ### Conditions -/

@[simp] theorem rxFull_rewire : rxFull (s.rewire l t p n) = rxFull s := rfl
@[simp] theorem txFull_rewire : txFull (s.rewire l t p n) = txFull s := rfl
@[simp] theorem rxCnt_rewire : rxCnt (s.rewire l t p n) = rxCnt s := rfl
@[simp] theorem running_rewire : running (s.rewire l t p n) = running s := rfl
@[simp] theorem patched_rewire : patched (s.rewire l t p n) = patched s := rfl
@[simp] theorem rxEnabled_rewire : rxEnabled (s.rewire l t p n) = rxEnabled s := rfl
@[simp] theorem txEnabled_rewire : txEnabled (s.rewire l t p n) = txEnabled s := rfl
@[simp] theorem sampleEnabled_rewire : sampleEnabled (s.rewire l t p n) = sampleEnabled s := rfl
@[simp] theorem hostWindow_rewire : hostWindow (s.rewire l t p n) = hostWindow s := rfl
@[simp] theorem leavesShortCommand_rewire : leavesShortCommand (s.rewire l t p n) = leavesShortCommand s := rfl
@[simp] theorem settleBound_rewire : settleBound (s.rewire l t p n) = settleBound s := rfl
@[simp] theorem readMem_rewire (a : Nat) : readMem (s.rewire l t p n) a = readMem s a := rfl

/-! ### Shared operations -/

@[simp] theorem raiseFault_rewire (f : SpecFault) :
    raiseFault f (s.rewire l t p n) = (raiseFault f s).rewire l t p n := by
  unfold raiseFault
  rw [State.rewire_faults]
  split <;> rfl

@[simp] theorem emit_rewire (o : Output) : emit o (s.rewire l t p n) = (emit o s).rewire l t p n := rfl
@[simp] theorem drawn_rewire : drawn (s.rewire l t p n) = (drawn s).rewire l t p n := rfl
@[simp] theorem popRx_rewire : popRx (s.rewire l t p n) = (popRx s).rewire l t p n := rfl
@[simp] theorem triggerSde_rewire (a : Nat) :
    triggerSde a (s.rewire l t p n) = (triggerSde a s).rewire l t p n := rfl
@[simp] theorem triggerRve_rewire (a : Nat) :
    triggerRve a (s.rewire l t p n) = (triggerRve a s).rewire l t p n := rfl
@[simp] theorem gotoDisp_rewire (d : DispState) :
    gotoDisp d (s.rewire l t p n) = (gotoDisp d s).rewire l t p n := rfl
@[simp] theorem loadByte_rewire (a : Nat) : loadByte a (s.rewire l t p n) = loadByte a s := rfl

@[simp] theorem afterLoad_rewire (a : Nat) :
    afterLoad a (s.rewire l t p n) = (afterLoad a s).rewire l t p n := by
  unfold afterLoad
  rw [State.rewire_cfg, Config.rewire_memSize]
  split <;> rfl

@[simp] theorem loadBytes_rewire (k a : Nat) :
    loadBytes k a (s.rewire l t p n) = ((loadBytes k a s).1, (loadBytes k a s).2.rewire l t p n) := by
  induction k generalizing a s with
  | zero => rfl
  | succ k ih => simp [loadBytes, ih]

@[simp] theorem storeByte_rewire (a : Nat) (v : Byte) :
    storeByte a v (s.rewire l t p n) = (storeByte a v s).rewire l t p n := by
  unfold storeByte
  rw [State.rewire_cfg, Config.rewire_memSize]
  split <;> simp

@[simp] theorem endEntry_rewire :
    endEntry (s.rewire l t p n) = (endEntry s).map (State.rewire · l t p n) := by
  unfold endEntry
  rw [State.rewire_disp]
  split
  · unfold exitWrite
    rw [State.rewire_rx, State.rewire_rve]
    split <;> rfl
  all_goals rfl

/-! ### Internal steps -/

theorem rxUnstall_rewire :
    rxUnstall (s.rewire l t p n) = (rxUnstall s).map (State.rewire · l t p n) := by
  unfold rxUnstall
  rw [State.rewire_rx, rxFull_rewire]
  split <;> rfl

theorem hoeStep_rewire : hoeStep (s.rewire l t p n) = (hoeStep s).map (State.rewire · l t p n) := by
  unfold hoeStep
  rw [State.rewire_rx, State.rewire_hoe]
  cases s.rx.fifo with
  | nil => rfl
  | cons e es => dsimp only; split <;> rfl

theorem sdeStep_rewire : sdeStep (s.rewire l t p n) = (sdeStep s).map (State.rewire · l t p n) := by
  unfold sdeStep
  rw [State.rewire_sde, txFull_rewire]
  split
  · simp
  · rfl

theorem rveStep_rewire : rveStep (s.rewire l t p n) = (rveStep s).map (State.rewire · l t p n) := by
  unfold rveStep
  rw [State.rewire_rx, State.rewire_rve]
  cases s.rx.fifo with
  | nil => rfl
  | cons e es =>
    dsimp only
    split
    · simp
    · rfl

theorem dispFastReadArm_rewire :
    dispFastReadArm (s.rewire l t p n) = (dispFastReadArm s).map (State.rewire · l t p n) := by
  unfold dispFastReadArm
  rw [patched_rewire, State.rewire_disp, State.rewire_rx]
  split
  · rfl
  · split
    · exact endEntry_rewire s l t p n
    · cases s.rx.fifo with
      | nil => rfl
      | cons e es => dsimp only; split <;> rfl

theorem dispWriteArm_rewire :
    dispWriteArm (s.rewire l t p n) = (dispWriteArm s).map (State.rewire · l t p n) := by
  unfold dispWriteArm
  rw [State.rewire_disp, State.rewire_rx]
  split
  · exact endEntry_rewire s l t p n
  · cases s.rx.fifo with
    | nil => rfl
    | cons e es => dsimp only; split <;> rfl

theorem dispStep_rewire : dispStep (s.rewire l t p n) = (dispStep s).map (State.rewire · l t p n) := by
  unfold dispStep
  rw [State.rewire_disp]
  cases s.disp.state with
  | idle =>
    dsimp only
    unfold dispWake
    rw [State.rewire_rx]
    split <;> rfl
  | decode =>
    dsimp only
    unfold dispDecode
    rw [State.rewire_rx]
    cases s.rx.fifo <;> rfl
  | readArm => rfl
  | fastReadArm => exact dispFastReadArm_rewire s l t p n
  | writeArm => exact dispWriteArm_rewire s l t p n
  | ignoreUnknown => rfl
  | awaitDeselect =>
    dsimp only
    unfold dispAwait
    rw [State.rewire_disp]
    split
    · exact endEntry_rewire s l t p n
    · rfl
  | resetPipelines => rfl

theorem internal_rewire : internal (s.rewire l t p n) = (internal s).map (State.rewire · l t p n) := by
  unfold internal
  rw [running_rewire]
  split
  · simp only [rxUnstall_rewire, hoeStep_rewire, sdeStep_rewire, rveStep_rewire, dispStep_rewire, Option.map_or]
  · rfl

@[simp] theorem settle_rewire : settle (s.rewire l t p n) = (settle s).rewire l t p n := by
  have hfor : ∀ (k : Nat) (u : State), settleFor k (u.rewire l t p n) = (settleFor k u).rewire l t p n := by
    intro k
    induction k with
    | zero => exact fun _ => rfl
    | succ k ih =>
      intro u
      unfold settleFor
      rw [internal_rewire]
      cases internal u with
      | none => rfl
      | some v => exact ih v
  exact hfor (settleBound s) s

/-! ### Clock events -/

@[simp] theorem rxShiftIn_rewire (b : Bool) :
    rxShiftIn b (s.rewire l t p n) = (rxShiftIn b s).rewire l t p n := rfl
@[simp] theorem rxPush_rewire : rxPush (s.rewire l t p n) = (rxPush s).rewire l t p n := rfl

@[simp] theorem rxClock_rewire (b : Bool) : rxClock b (s.rewire l t p n) = (rxClock b s).rewire l t p n := by
  have hcomplete : ∀ u : State, rxComplete (u.rewire l t p n) = (rxComplete u).rewire l t p n := by
    intro u
    unfold rxComplete
    rw [rxFull_rewire]
    split <;> rfl
  unfold rxClock
  rw [rxShiftIn_rewire, rxCnt_rewire, State.rewire_cfg, Config.rewire_addrBits, State.rewire_rx, hcomplete]
  split <;> rfl

/-- What `TXSM` answers at a clock edge, in the other build. -/
def rewireAnswer (l : LineLevel) (t : Timing) (p : Pins) (n : Instances) (r : So × State) : So × State :=
  (r.1, r.2.rewire l t p n)

theorem txPull_rewire (e : List Byte) :
    txPull e (s.rewire l t p n) = (txPull e s).map (State.rewire · l t p n) := by
  unfold txPull
  rw [State.rewire_tx]
  split <;> rfl

theorem txShiftOut_rewire : txShiftOut (s.rewire l t p n) = rewireAnswer l t p n (txShiftOut s) := by
  unfold txShiftOut
  rw [State.rewire_tx]
  split <;> rfl

theorem txFirst_rewire : txFirst (s.rewire l t p n) = (txFirst s).map (rewireAnswer l t p n) := by
  unfold txFirst
  rw [State.rewire_tx]
  cases s.tx.fifo with
  | nil => rfl
  | cons e es =>
    dsimp only
    rw [txPull_rewire]
    cases txPull e s with
    | error f => rfl
    | ok u =>
      cases s.tx.jump with
      | normal => exact congrArg Except.ok (txShiftOut_rewire (txEnterShift u) l t p n)
      | fast => rfl

theorem txNext_rewire : txNext (s.rewire l t p n) = (txNext s).map (rewireAnswer l t p n) := by
  unfold txNext
  rw [State.rewire_tx]
  cases s.tx.osr with
  | cons b bs => exact congrArg Except.ok (txShiftOut_rewire s l t p n)
  | nil =>
    cases s.tx.fifo with
    | nil => rfl
    | cons e es =>
      dsimp only
      rw [txPull_rewire]
      cases txPull e s with
      | error f => rfl
      | ok u => exact congrArg Except.ok (txShiftOut_rewire u l t p n)

theorem txClock_rewire : txClock (s.rewire l t p n) = (txClock s).map (rewireAnswer l t p n) := by
  unfold txClock
  rw [State.rewire_tx]
  cases s.tx.ip with
  | entry => exact txFirst_rewire s l t p n
  | dummy => rfl
  | shift => exact txNext_rewire s l t p n

@[simp] theorem clockRest_rewire (b : Bool) (o : So) :
    clockRest b o (s.rewire l t p n) = (clockRest b o s).rewire l t p n := by
  unfold clockRest
  rw [rxEnabled_rewire]
  split <;> simp

theorem clock_rewire (b : Bool) :
    clock b (s.rewire l t p n) = andThen (clock b s) fun u => .next (u.rewire l t p n) := by
  unfold clock
  rw [State.rewire_sys, txEnabled_rewire]
  cases s.sys.phase with
  | preSetup => simp
  | halted => rfl
  | running =>
    dsimp only
    split
    · rw [txClock_rewire]
      cases txClock s with
      | error f => rfl
      | ok r => simp [Except.map, rewireAnswer]
    · simp

/-! ### Events -/

theorem selectFall_rewire : selectFall (s.rewire l t p n) = (selectFall s).rewire l t p n := by
  unfold selectFall
  rw [State.rewire_sys]
  split <;> simp

theorem selectRise_rewire : selectRise (s.rewire l t p n) = (selectRise s).rewire l t p n := by
  unfold selectRise
  rw [State.rewire_sys, leavesShortCommand_rewire]
  split
  · simp
  · split <;> simp
  · rfl

theorem sample_rewire : sample (s.rewire l t p n) = (sample s).rewire l t p n := by
  have hsample : dispSample (s.rewire l t p n) = (dispSample s).rewire l t p n := by
    unfold dispSample
    rw [sampleEnabled_rewire]
    split <;> rfl
  unfold sample
  rw [running_rewire, hsample]
  split <;> simp

theorem hostRead_rewire (i : Nat) : hostRead i (s.rewire l t p n) = (hostRead i s).rewire l t p n := by
  unfold hostRead
  rw [hostWindow_rewire, State.rewire_cfg, Config.rewire_memSize, State.rewire_sys]
  split
  · split <;> rfl
  · split <;> simp [hostDraw]

theorem hostWrite_rewire (i : Nat) (v : Byte) :
    hostWrite i v (s.rewire l t p n) = (hostWrite i v s).rewire l t p n := by
  unfold hostWrite
  rw [hostWindow_rewire, State.rewire_sys]
  split
  · simp
  · split <;> simp

theorem setupRun_rewire (ok : Bool) : setupRun ok (s.rewire l t p n) = (setupRun ok s).rewire l t p n := by
  have hfill : setupFill (s.rewire l t p n) = (setupFill s).rewire l t p n := by
    unfold setupFill
    rw [State.rewire_cfg, Config.rewire_preserve]
    split <;> rfl
  have hcheck : ∀ u : State, setupCheckBus (u.rewire l t p n) = (setupCheckBus u).rewire l t p n := by
    intro u
    unfold setupCheckBus
    rw [State.rewire_csn]
    split <;> simp
  cases ok with
  | false => simp [setupRun, setupHalt, hfill]
  | true => simp [setupRun, setupLaunch, setupConfigure, hfill, hcheck]

theorem setup_rewire (ok : Bool) :
    setup ok (s.rewire l t p n) = andThen (setup ok s) fun u => .next (u.rewire l t p n) := by
  unfold setup
  rw [State.rewire_sys]
  cases s.sys.phase with
  | preSetup => simp [setupRun_rewire]
  | running => rfl
  | halted => rfl

theorem doEvent_rewire (e : Event) :
    doEvent e (s.rewire l t p n) = andThen (doEvent e s) fun u => .next (u.rewire l t p n) := by
  cases e with
  | setup ok => exact setup_rewire s l t p n ok
  | selectFall => exact congrArg _ (selectFall_rewire s l t p n)
  | selectRise => exact congrArg _ (selectRise_rewire s l t p n)
  | clock b => exact clock_rewire s l t p n b
  | sample => exact congrArg _ (sample_rewire s l t p n)
  | hostRead i => exact congrArg _ (hostRead_rewire s l t p n i)
  | hostWrite i v => exact congrArg _ (hostWrite_rewire s l t p n i v)

theorem doEvents_rewire (es : List Event) :
    doEvents es (s.rewire l t p n) = andThen (doEvents es s) fun u => .next (u.rewire l t p n) := by
  induction es generalizing s with
  | nil => rfl
  | cons e es ih =>
    rw [doEvents_cons, doEvents_cons, doEvent_rewire]
    cases doEvent e s with
    | next u => exact ih u
    | fault r => rfl
    | refused r => rfl

/-- Settles O60: a step is a sample, an event or a frame's events, and all of them commute with `State.rewire`. -/
theorem timingAndWiringAreUnread : Obligations.TimingAndWiringAreUnread := by
  intro s l t p n
  cases hin : s.inbox with
  | nil =>
    rw [step_of_inbox_nil hin, step_of_inbox_nil (s := s.rewire l t p n) hin, sample_rewire]
    rfl
  | cons input rest =>
    cases input with
    | event e =>
      rw [step_of_inbox_event hin, step_of_inbox_event (s := s.rewire l t p n) hin]
      exact doEvent_rewire (s.setInbox rest) l t p n e
    | frame bits =>
      rw [step_of_inbox_frame hin, step_of_inbox_frame (s := s.rewire l t p n) hin]
      exact doEvents_rewire (s.setInbox rest) l t p n _

end Sys2Proof.Machine
end

section
/-!
The inbound path (`10_state.md` R12 to R14, `40_read_pipeline.md` R82, R87): which words are queued, how many the
consumers have taken, and that pushing a word and taking the head keep the two in agreement.
-/
namespace Sys2Proof.Machine

/-! ### Words and positions -/

/-- A field of `n` bits has a value below `2 ^ n` (R64, R65). -/
theorem ofBits_lt (bits : List Bool) : ofBits bits < 2 ^ bits.length := by
  induction bits using List.reverseRecOn with
  | nil => simp [ofBits]
  | append_singleton bits b ih =>
    have hsnoc : ofBits (bits ++ [b]) = 2 * ofBits bits + b.toNat := by simp [ofBits]
    have hbit := Bool.toNat_lt b
    rw [hsnoc, List.length_append, List.length_singleton, Nat.pow_succ]
    omega

/-- From the third entry on every entry is a data byte. -/
theorem entryWidth_of_two_le {w : AddrBits} {k : Nat} (hk : 2 ≤ k) : entryWidth w k = 8 :=
  if_neg (by omega)

theorem entriesShaped_append (w : AddrBits) (k : Nat) (es : List RxEntry) (e : RxEntry) :
    entriesShaped w k (es ++ [e]) = true ↔
      entriesShaped w k es = true ∧ e.width = entryWidth w (k + es.length) ∧ e.value < 2 ^ e.width := by
  induction es generalizing k with
  | nil => simp [entriesShaped]
  | cons d es ih =>
    simp [entriesShaped, ih, and_assoc, Nat.add_assoc, Nat.add_comm 1]

theorem entriesShaped_cons {w : AddrBits} {k : Nat} {e : RxEntry} {es : List RxEntry}
    (h : entriesShaped w k (e :: es) = true) :
    e.width = entryWidth w k ∧ e.value < 2 ^ e.width ∧ entriesShaped w (k + 1) es = true := by
  simpa [entriesShaped, and_assoc] using h

/-- Among data bytes the position does not matter. -/
theorem entriesShaped_of_two_le {w : AddrBits} {j k : Nat} {es : List RxEntry} (hj : 2 ≤ j) (hk : 2 ≤ k)
    (h : entriesShaped w j es = true) : entriesShaped w k es = true := by
  induction es generalizing j k with
  | nil => rfl
  | cons e es ih =>
    obtain ⟨hwidth, hvalue, hrest⟩ := entriesShaped_cons h
    have hwidth' : e.width = entryWidth w k := by
      rw [hwidth, entryWidth_of_two_le hj, entryWidth_of_two_le hk]
    have hrest' : entriesShaped w (k + 1) es = true := ih (by omega) (by omega) hrest
    unfold entriesShaped
    rw [hrest', decide_eq_true hwidth', decide_eq_true hvalue]
    rfl

/-! ### How many entries the consumers have taken -/

theorem entriesTaken_of_idle {s : State} (h : s.disp.state = .idle) : entriesTaken s = 0 := by
  simp [entriesTaken, h]

theorem entriesTaken_of_decode {s : State} (h : s.disp.state = .decode) : entriesTaken s = 0 := by
  simp [entriesTaken, h]

theorem entriesTaken_of_arm {s : State} {c : Cmd} (h : s.disp.state = armState c) : entriesTaken s = 1 := by
  cases c <;> simp [entriesTaken, h, armState]

theorem entriesTaken_of_read {s : State} (h : s.disp.state = .awaitDeselect) (hc : s.disp.cmd = some .read) :
    entriesTaken s = if s.hoe.started then 1 else 2 := by
  simp [entriesTaken, h, hc]

theorem entriesTaken_of_fastRead {s : State} (h : s.disp.state = .awaitDeselect) (hc : s.disp.cmd = some .fastRead) :
    entriesTaken s = 2 := by
  simp [entriesTaken, h, hc]

theorem entriesTaken_of_write {s : State} (h : s.disp.state = .awaitDeselect) (hc : s.disp.cmd = some .write) :
    entriesTaken s = 2 := by
  simp [entriesTaken, h, hc]

theorem entriesTaken_of_unknown {s : State} (h : s.disp.state = .awaitDeselect) (hc : s.disp.cmd = some .unknown) :
    entriesTaken s = 1 := by
  simp [entriesTaken, h, hc]

/-! ### `InboundFits` -/

theorem inboundFits_initial {s : State} (hrx : s.rx = Rx.initial) (hd : s.disp.state = .idle) : InboundFits s := by
  refine ⟨?_, ?_, ?_, ?_, ?_, ?_, ?_, ?_, ?_, ?_⟩ <;>
    simp [hrx, hd, Rx.initial, rxCnt, rxTarget, entriesTaken_of_idle, entriesShaped]

/-- The inbound path does not see a dispatcher step that takes no entry. -/
theorem inboundFits_of_rx_eq {s t : State} (h : InboundFits s) (hcfg : t.cfg = s.cfg) (hrx : t.rx = s.rx)
    (htaken : entriesTaken t = entriesTaken s) (hdecode : t.disp.state = .decode → s.rx.fifo ≠ []) :
    InboundFits t := by
  obtain ⟨hen, hlen, hst, hnst, hdone, hentry, haddr, hdata, -, hshape⟩ := h
  unfold InboundFits rxCnt
  rw [hcfg, hrx, htaken]
  exact ⟨hen, hlen, hst, hnst, hdone, hentry, haddr, hdata, hdecode, hshape⟩

/-- Taking the head of the receive queue keeps the inbound path in agreement: the taker counts it, or it is a data byte
of a WRITE, which the count leaves out. -/
theorem inboundFits_of_pop {s t : State} {e : RxEntry} {es : List RxEntry} (h : InboundFits s)
    (hfifo : s.rx.fifo = e :: es) (hcfg : t.cfg = s.cfg) (hrx : t.rx = { s.rx with fifo := es })
    (htaken : entriesTaken t = entriesTaken s + 1 ∨ entriesTaken s = 2 ∧ entriesTaken t = 2)
    (hdecode : t.disp.state ≠ .decode) : InboundFits t := by
  obtain ⟨hen, hlen, hst, hnst, hdone, hentry, haddr, hdata, -, hshape⟩ := h
  rw [hfifo, List.length_cons] at hlen hentry haddr hdata
  have hshape' : entriesShaped s.cfg.addrBits (entriesTaken t) es = true := by
    obtain ⟨-, -, hrest⟩ := entriesShaped_cons (hfifo ▸ hshape)
    rcases htaken with hcount | ⟨htwo, htwo'⟩
    · rwa [hcount]
    · exact entriesShaped_of_two_le (by omega) (by omega) hrest
  unfold InboundFits rxCnt
  rw [hcfg, hrx]
  dsimp only
  exact ⟨hen, Nat.le_of_succ_le hlen, hst, hnst, hdone, fun hip => by have := hentry hip; omega,
    fun hip => by have := haddr hip; omega, fun hip => by have := hdata hip; omega,
    fun hd => absurd hd hdecode, hshape'⟩

/-- The word being collected has the width of the queue position it will take (R82). -/
theorem InboundFits.rxTarget_eq {s : State} (h : InboundFits s) :
    rxTarget s.cfg.addrBits s.rx.ip = entryWidth s.cfg.addrBits (entriesTaken s + s.rx.fifo.length) := by
  obtain ⟨-, -, -, -, -, hentry, haddr, hdata, -, -⟩ := h
  cases hip : s.rx.ip with
  | entry => rw [hentry hip]; rfl
  | addr => rw [haddr hip]; rfl
  | data => rw [entryWidth_of_two_le (hdata hip)]; rfl

/-- The pending push of a held word. -/
theorem inboundFits_rxPush {s : State} (h : InboundFits s) (hst : s.rx.stalled = true) (hfull : rxFull s = false) :
    InboundFits (rxPush s) := by
  have htarget := h.rxTarget_eq
  obtain ⟨hen, -, hcnt, -, hdone, hentry, haddr, hdata, hdecode, hshape⟩ := h
  have hroom : s.rx.fifo.length < s.cfg.rxDepth := by simpa [rxFull] using hfull
  have htaken : entriesTaken (rxPush s) = entriesTaken s := rfl
  have hwidth : (completedWord s.rx.isr).width = entryWidth s.cfg.addrBits (entriesTaken s + s.rx.fifo.length) :=
    (hcnt hst).trans htarget
  have hshape' : entriesShaped s.cfg.addrBits (entriesTaken s) (s.rx.fifo ++ [completedWord s.rx.isr]) = true :=
    (entriesShaped_append _ _ _ _).2 ⟨hshape, hwidth, ofBits_lt _⟩
  have hempty : ∀ ip, 0 < rxTarget s.cfg.addrBits ip := fun ip => by
    cases ip <;> cases s.cfg.addrBits <;> decide
  unfold InboundFits
  rw [htaken]
  simp only [rxPush_rx, rxPush_frame, rxCnt, List.length_append, List.length_singleton, List.length_nil]
  refine ⟨hen, hroom, nofun, fun _ => hempty _, ?_⟩
  cases hip : s.rx.ip with
  | entry =>
    have hsum := hentry hip
    exact ⟨by simpa [hip, rxNextIp] using hdone, nofun, fun _ => by omega, nofun, by simp, hshape'⟩
  | addr =>
    have hsum := haddr hip
    exact ⟨by simp [rxNextIp], nofun, nofun, fun _ => by omega, by simp, hshape'⟩
  | data =>
    have hsum := hdata hip
    exact ⟨by simpa [hip, rxNextIp] using hdone, nofun, nofun, fun _ => by omega, by simp, hshape'⟩

/-- A completed word that finds the queue full is held (R83). -/
def rxHold (b : Bool) (s : State) : State := (rxShiftIn b s).setRx { (rxShiftIn b s).rx with stalled := true }

/-- A `Clock` step of `RXSM` collects a bit, holds a completed word, or pushes it as it would push the held one. -/
theorem rxClock_hold_cases (b : Bool) (s : State) :
    rxCnt s + 1 ≠ rxTarget s.cfg.addrBits s.rx.ip ∧ rxClock b s = rxShiftIn b s ∨
    rxCnt s + 1 = rxTarget s.cfg.addrBits s.rx.ip ∧
      (rxClock b s = rxHold b s ∨ rxFull (rxHold b s) = false ∧ rxClock b s = rxPush (rxHold b s)) := by
  rcases rxClock_cases s b with h | ⟨hword, -, h⟩ | ⟨hword, hfull, h⟩
  · exact .inl h
  · exact .inr ⟨hword, .inl h⟩
  · exact .inr ⟨hword, .inr ⟨hfull, h⟩⟩

/-- Collecting a bit that completes no word. -/
theorem inboundFits_rxShiftIn {s : State} (b : Bool) (h : InboundFits s) (hst : s.rx.stalled = false)
    (hcnt : rxCnt s + 1 ≠ rxTarget s.cfg.addrBits s.rx.ip) : InboundFits (rxShiftIn b s) := by
  obtain ⟨hen, hlen, -, hlt, hdone, hentry, haddr, hdata, hdecode, hshape⟩ := h
  have hlt' : rxCnt (rxShiftIn b s) < rxTarget s.cfg.addrBits s.rx.ip := by
    have := hlt hst
    have hlong : rxCnt (rxShiftIn b s) = rxCnt s + 1 := by simp [rxCnt]
    omega
  exact ⟨hen, hlen, fun hst' => absurd hst' (by simp [hst]), fun _ => hlt', hdone, hentry, haddr, hdata, hdecode,
    hshape⟩

/-- Holding a completed word. -/
theorem inboundFits_rxHold {s : State} (b : Bool) (h : InboundFits s)
    (hcnt : rxCnt s + 1 = rxTarget s.cfg.addrBits s.rx.ip) : InboundFits (rxHold b s) := by
  obtain ⟨hen, hlen, -, -, hdone, hentry, haddr, hdata, hdecode, hshape⟩ := h
  have hword : rxCnt (rxHold b s) = rxTarget s.cfg.addrBits s.rx.ip := by
    rw [← hcnt]
    simp [rxHold, rxCnt]
  exact ⟨hen, hlen, fun _ => hword, fun hst => absurd hst (by simp [rxHold]), hdone, hentry, haddr, hdata, hdecode,
    hshape⟩

end Sys2Proof.Machine
end

section
/-!
The control part of the invariant (`10_state.md` R39 with R10 to R29): outside `AWAIT_DESELECT` nothing is engaged, and
every step of an agent keeps `RunningInv`, or leads to `RESET_PIPELINES`, where only the reset is left to do.
-/
namespace Sys2Proof.Machine

/-! ### Engagement and patches -/

/-- No engine runs, and the outbound path is enabled, at its entry and empty (R39 (c), R98). -/
def Disengaged (s : State) : Prop :=
  s.hoe.started = false ∧ s.sde.busy = false ∧ s.rve.busy = false ∧
    s.tx.en = true ∧ s.tx.ip = .entry ∧ s.tx.dly = 0 ∧ s.tx.osr = [] ∧ s.tx.fifo = []

/-- The outbound path is in its normal configuration (R97). -/
def Unpatched (s : State) : Prop := s.tx.jump = .normal ∧ s.tx.pull = .p32 ∧ s.sde.unit = .w32Bswap

/-- Engines and outbound path are engaged only where the dispatcher awaits the deselect. -/
theorem RunningInv.disengaged {s : State} (h : RunningInv s) (hs : s.disp.state ≠ .awaitDeselect) :
    Disengaged s := by
  obtain ⟨-, -, -, -, -, -, ⟨hhoe, hsde, hrve⟩, -, hen, -, hentry, -, -, hout⟩ := h
  have hip : s.tx.ip = .entry := by
    by_contra hip
    exact hs (hout (.inl hip)).1
  have hfifo : s.tx.fifo = [] := by
    by_contra hfifo
    exact hs (hout (.inr hfifo)).1
  exact ⟨Bool.eq_false_iff.2 fun hb => hs (hhoe hb).1, Bool.eq_false_iff.2 fun hb => hs (hsde hb).1,
    Bool.eq_false_iff.2 fun hb => hs (hrve hb).1, hen, hip, (hentry hip).2, (hentry hip).1, hfifo⟩

/-- Only a FAST_READ is patched. -/
theorem PatchPaired.unpatched {s : State} (h : PatchPaired s) (hc : s.disp.cmd ≠ some .fastRead) : Unpatched s := by
  obtain ⟨hunit, hpull, hcmd⟩ := h
  have hjump : s.tx.jump ≠ .fast := fun hj => hc (hcmd hj)
  refine ⟨?_, ?_, ?_⟩
  · cases hj : s.tx.jump with
    | normal => rfl
    | fast => exact absurd hj hjump
  · cases hp : s.tx.pull with
    | p32 => rfl
    | p8 => exact absurd (hpull.2 hp) hjump
  · cases hu : s.sde.unit with
    | w32Bswap => rfl
    | w8 => exact absurd (hunit.2 hu) hjump

theorem Unpatched.patchPaired {s : State} (h : Unpatched s) : PatchPaired s := by
  obtain ⟨hjump, hpull, hunit⟩ := h
  simp [PatchPaired, hjump, hpull, hunit]

/-- With nothing engaged, the invariant is about the patches, the dispatcher and the inbound path only. -/
theorem runningInv_of_disengaged {s : State} (h : Disengaged s) (hpatch : PatchPaired s) (hcmd : CmdFits s)
    (hfilter : FilterOk s) (hin : InboundFits s) : RunningInv s := by
  obtain ⟨hhoe, hsde, hrve, hen, hip, hdly, hosr, hfifo⟩ := h
  refine ⟨by simp [hsde], fun _ => ⟨hsde, hrve, hhoe⟩, hpatch, by simp [UnitsSized, hfifo], hcmd, hfilter,
    by simp [EnginesFit, hhoe, hsde, hrve], hin, ?_⟩
  simp [OutboundFits, txCnt, hen, hip, hdly, hosr, hfifo]

/-- The shifters and the dispatcher at their initial values, with the engines halted and no patch: after setup and
after a pipeline reset (R122, R176). -/
theorem runningInv_initial {s : State} (hrx : s.rx = Rx.initial) (htx : s.tx = Tx.initial)
    (hdisp : s.disp = Disp.initial) (hhoe : s.hoe.started = false) (hsde : s.sde.busy = false)
    (hrve : s.rve.busy = false) (hunit : s.sde.unit = .w32Bswap) : RunningInv s := by
  have hdis : Disengaged s := ⟨hhoe, hsde, hrve, by simp [htx, Tx.initial]⟩
  have hunp : Unpatched s := ⟨by simp [htx, Tx.initial], by simp [htx, Tx.initial], hunit⟩
  exact runningInv_of_disengaged hdis hunp.patchPaired (by simp [CmdFits, hdisp, Disp.initial])
    (by simp [FilterOk, hdisp, Disp.initial]) (inboundFits_initial hrx (by simp [hdisp, Disp.initial]))

theorem RunningInv.not_resetPipelines {s : State} (h : RunningInv s) : s.disp.state ≠ .resetPipelines := by
  obtain ⟨-, -, -, -, ⟨-, -, -, -, -, -, hreset⟩, -⟩ := h
  exact hreset

/-! ### `RESET_PIPELINES`, which is never seen between events -/

/-- In `RESET_PIPELINES` the exit step has halted the engines and reverted the patches (R119 to R124). -/
def ResetReady (s : State) : Prop :=
  s.disp.state = .resetPipelines ∧ s.hoe.started = false ∧ s.sde.busy = false ∧ s.rve.busy = false ∧ Unpatched s

/-- What holds of a running machine while its internal steps are taken. -/
def ServingInv (s : State) : Prop := RunningInv s ∨ ResetReady s

/-- The pipeline reset reaches `IDLE` with everything empty. -/
theorem runningInv_endReturn {s : State} (h : ResetReady s) : RunningInv (endReturn s) := by
  obtain ⟨-, hhoe, hsde, hrve, hjump, hpull, hunit⟩ := h
  refine runningInv_initial ?_ ?_ ?_ ?_ ?_ ?_ ?_ <;> simp [Tx.initial, *]

/-! ### The dispatcher -/

theorem runningInv_wake {s : State} (h : RunningInv s) (hs : s.disp.state = .idle) (hfifo : s.rx.fifo ≠ []) :
    RunningInv (gotoDisp .decode s) := by
  have hdis := h.disengaged (by simp [hs])
  obtain ⟨-, -, hpatch, -, ⟨hnone, -⟩, ⟨-, hhi⟩, -, hin, -⟩ := h
  have htaken : entriesTaken (gotoDisp .decode s) = entriesTaken s := by
    rw [entriesTaken_of_idle hs, entriesTaken_of_decode rfl]
  exact runningInv_of_disengaged hdis hpatch (by simp [CmdFits, hnone (.inl hs)])
    (by simp [FilterOk, hhi (.inl hs)]) (inboundFits_of_rx_eq hin rfl rfl htaken fun _ => hfifo)

theorem runningInv_decode {s : State} {e : RxEntry} {es : List RxEntry} (c : Cmd) (h : RunningInv s)
    (hs : s.disp.state = .decode) (hfifo : s.rx.fifo = e :: es) :
    RunningInv ((popRx s).setDisp ⟨armState c, s.disp.hi, some c⟩) := by
  have hdis := h.disengaged (by simp [hs])
  obtain ⟨-, -, hpatch, -, ⟨hnone, -⟩, ⟨-, hhi⟩, -, hin, -⟩ := h
  have hunp : Unpatched s := hpatch.unpatched (by simp [hnone (.inr hs)])
  have hhi0 : s.disp.hi = 0 := hhi (.inr (.inl hs))
  have htaken : entriesTaken ((popRx s).setDisp ⟨armState c, s.disp.hi, some c⟩) = entriesTaken s + 1 := by
    rw [entriesTaken_of_decode hs, entriesTaken_of_arm rfl]
  refine runningInv_of_disengaged hdis (Unpatched.patchPaired hunp) ?_ (by simp [FilterOk, hhi0])
    (inboundFits_of_pop hin hfifo rfl (by simp [hfifo]) (.inl htaken) ?_)
  · cases c <;> simp [CmdFits, armState]
  · cases c <;> simp [armState]

theorem runningInv_readArm {s : State} (h : RunningInv s) (hs : s.disp.state = .readArm) :
    RunningInv (dispReadArm s) := by
  obtain ⟨-, hsde, hrve, -⟩ := h.disengaged (by simp [hs])
  obtain ⟨hone, -, hpatch, hunits, ⟨-, hread, -⟩, ⟨hle, -⟩, -, hin, hen, hcnt, hentry, hshift, hdummy, hout⟩ := h
  have hc : s.disp.cmd = some .read := hread hs
  have htaken : entriesTaken (dispReadArm s) = entriesTaken s := by
    simp [entriesTaken_of_arm (c := .read) hs, entriesTaken_of_read, dispReadArm, hc]
  exact ⟨hone, nofun, hpatch, hunits, by simp [CmdFits, dispReadArm, hc], by simp [FilterOk, dispReadArm, hle],
    by simp [EnginesFit, dispReadArm, hsde, hrve, hc], inboundFits_of_rx_eq hin rfl rfl htaken nofun,
    hen, hcnt, hentry, hshift, hdummy, fun _ => ⟨rfl, .inl hc⟩⟩

theorem runningInv_ignore {s : State} (h : RunningInv s) (hs : s.disp.state = .ignoreUnknown) :
    RunningInv (dispIgnore s) := by
  have hdis := h.disengaged (by simp [hs])
  obtain ⟨-, -, hpatch, -, ⟨-, -, -, -, hunknown, -⟩, ⟨hle, -⟩, -, hin, -⟩ := h
  have hc : s.disp.cmd = some .unknown := hunknown hs
  have htaken : entriesTaken (dispIgnore s) = entriesTaken s := by
    simp [entriesTaken_of_arm (c := .unknown) hs, entriesTaken_of_unknown, dispIgnore, hc]
  exact runningInv_of_disengaged hdis hpatch (by simp [CmdFits, dispIgnore, hc])
    (by simp [FilterOk, dispIgnore, hle]) (inboundFits_of_rx_eq hin rfl rfl htaken nofun)

theorem runningInv_applyFastPatch {s : State} (h : RunningInv s) (hs : s.disp.state = .fastReadArm) :
    RunningInv (applyFastPatch s) := by
  have hdis := h.disengaged (by simp [hs])
  obtain ⟨-, -, -, -, ⟨-, -, hfast, -⟩, hfilter, -, hin, -⟩ := h
  have hc : s.disp.cmd = some .fastRead := hfast hs
  exact runningInv_of_disengaged hdis (by simp [PatchPaired, hc]) (by simp [CmdFits, hs, hc]) hfilter
    (inboundFits_of_rx_eq hin rfl rfl rfl (by simp [hs]))

/-- FAST_READ's arm step: the dispatcher takes the address and starts the send-side engine (R116). -/
theorem runningInv_fastReadTrigger {s : State} {e : RxEntry} {es : List RxEntry} (a : Nat) (h : RunningInv s)
    (hs : s.disp.state = .fastReadArm) (hjump : s.tx.jump = .fast) (hfifo : s.rx.fifo = e :: es) :
    RunningInv (gotoDisp .awaitDeselect (triggerSde a (popRx s))) := by
  obtain ⟨hhoe, -, hrve, -⟩ := h.disengaged (by simp [hs])
  obtain ⟨-, -, hpatch, hunits, ⟨-, -, hfast, -⟩, ⟨hle, -⟩, -, hin, hen, hcnt, hentry, hshift, hdummy, -⟩ := h
  have hc : s.disp.cmd = some .fastRead := hfast hs
  have htaken : entriesTaken (gotoDisp .awaitDeselect (triggerSde a (popRx s))) = entriesTaken s + 1 := by
    simp [entriesTaken_of_arm (c := .fastRead) hs, entriesTaken_of_fastRead, hc]
  exact ⟨by simp [OneDirection, hrve], nofun, hpatch, hunits, by simp [CmdFits, hc, hjump], by simp [FilterOk, hle],
    by simp [EnginesFit, Reading, readXferCount, hhoe, hrve, hc],
    inboundFits_of_pop hin hfifo rfl (by simp [hfifo]) (.inl htaken) nofun,
    hen, hcnt, hentry, hshift, hdummy, fun _ => ⟨rfl, .inr hc⟩⟩

/-- WRITE's arm step: the dispatcher takes the address and starts the receive-side engine (R117). -/
theorem runningInv_writeTrigger {s : State} {e : RxEntry} {es : List RxEntry} (a : Nat) (hwf : s.cfg.wf)
    (h : RunningInv s) (hs : s.disp.state = .writeArm) (hfifo : s.rx.fifo = e :: es) :
    RunningInv (gotoDisp .awaitDeselect (triggerRve a (popRx s))) := by
  obtain ⟨hhoe, hsde, -, -, hip, -, -, htxfifo⟩ := h.disengaged (by simp [hs])
  obtain ⟨-, -, hpatch, hunits, ⟨-, -, -, hwrite, -⟩, ⟨hle, -⟩, -, hin, hen, hcnt, hentry, hshift, hdummy, -⟩ := h
  obtain ⟨-, -, (hcount : 0 < s.cfg.rveXferCount)⟩ := hwf
  have hc : s.disp.cmd = some .write := hwrite hs
  have htaken : entriesTaken (gotoDisp .awaitDeselect (triggerRve a (popRx s))) = entriesTaken s + 1 := by
    simp [entriesTaken_of_arm (c := .write) hs, entriesTaken_of_write, hc]
  exact ⟨by simp [OneDirection, hsde], nofun, hpatch, hunits, by simp [CmdFits, hc], by simp [FilterOk, hle],
    by simp [EnginesFit, hhoe, hsde, hc, hcount],
    inboundFits_of_pop hin hfifo rfl (by simp [hfifo]) (.inl htaken) nofun,
    hen, hcnt, hentry, hshift, hdummy, by simp [hip, htxfifo]⟩

/-- The exit step of every command halts what the command engaged. -/
theorem resetReady_endEntry {s t : State} (h : RunningInv s) (he : endEntry s = some t) : ResetReady t := by
  obtain ⟨-, -, hpatch, -, -, -, ⟨hhoe, hsde, hrve⟩, -, -⟩ := h
  have hhoe' : s.disp.cmd ≠ some .read → s.hoe.started = false := fun hc =>
    Bool.eq_false_iff.2 fun hb => hc (hhoe hb).2.1
  have hsde' : ¬ Reading s → s.sde.busy = false := fun hc => Bool.eq_false_iff.2 fun hb => hc (hsde hb).2.1
  have hrve' : s.disp.cmd ≠ some .write → s.rve.busy = false := fun hc =>
    Bool.eq_false_iff.2 fun hb => hc (hrve hb).2.1
  rcases endEntry_cases he with ⟨hc, rfl⟩ | ⟨hc, rfl⟩ | ⟨hc, -, rfl⟩ | ⟨hc, rfl⟩
  · exact ⟨rfl, rfl, rfl, hrve' (by simp [hc]), hpatch.unpatched (by simp [hc])⟩
  · exact ⟨rfl, hhoe' (by simp [hc]), rfl, hrve' (by simp [hc]), rfl, rfl, rfl⟩
  · exact ⟨rfl, hhoe' (by simp [hc]), hsde' (by simp [hc]), rfl, hpatch.unpatched (by simp [hc])⟩
  · exact ⟨rfl, hhoe' (by simp [hc]), hsde' (by simp [hc]), hrve' (by simp [hc]), hpatch.unpatched (by simp [hc])⟩

theorem servingInv_dispStep {s t : State} (hwf : s.cfg.wf) (h : ServingInv s) (ht : dispStep s = some t) :
    ServingInv t := by
  rcases h with h | hready
  · rcases dispStep_cases ht with ⟨hs, hfifo, rfl⟩ | ⟨e, es, hs, hfifo, rfl⟩ | ⟨hs, rfl⟩ | ⟨hs, rfl⟩ | ⟨hs, -, rfl⟩ |
      ⟨e, es, hs, hjump, -, hfifo, rfl⟩ | ⟨e, es, hs, -, hfifo, rfl⟩ | ⟨-, -, hend⟩ | ⟨hs, -⟩
    · exact .inl (runningInv_wake h hs hfifo)
    · exact .inl (runningInv_decode _ h hs hfifo)
    · exact .inl (runningInv_readArm h hs)
    · exact .inl (runningInv_ignore h hs)
    · exact .inl (runningInv_applyFastPatch h hs)
    · exact .inl (runningInv_fastReadTrigger _ h hs hjump hfifo)
    · exact .inl (runningInv_writeTrigger _ hwf h hs hfifo)
    · exact .inr (resetReady_endEntry h hend)
    · exact absurd hs h.not_resetPipelines
  · obtain rfl : endReturn s = t := by simpa [dispStep, hready.1] using ht
    exact .inl (runningInv_endReturn hready)

/-! ### The other agents -/

theorem servingInv_rxPush {s : State} (h : ServingInv s) (hst : s.rx.stalled = true) (hfull : rxFull s = false) :
    ServingInv (rxPush s) := by
  rcases h with ⟨hone, hidle, hpatch, hunits, hcmd, hfilter, heng, hin, hout⟩ | hready
  · exact .inl ⟨hone, hidle, hpatch, hunits, hcmd, hfilter, heng, inboundFits_rxPush hin hst hfull, hout⟩
  · exact .inr hready

/-- The hand-off: the engine takes the address of a READ and starts the send-side engine (R101). -/
theorem runningInv_handOff {s : State} {e : RxEntry} {es : List RxEntry} (a : Nat) (h : RunningInv s)
    (hfifo : s.rx.fifo = e :: es) (hstart : s.hoe.started = true) :
    RunningInv ((triggerSde a (popRx s)).setHoe ⟨false⟩) := by
  obtain ⟨-, -, hpatch, hunits, hcmd, hfilter, ⟨hhoe, -, hrve⟩, hin, hout⟩ := h
  obtain ⟨hs, hc, -⟩ := hhoe hstart
  have hrve' : s.rve.busy = false := Bool.eq_false_iff.2 fun hb => by simpa [hc] using (hrve hb).2.1
  have htaken : entriesTaken ((triggerSde a (popRx s)).setHoe ⟨false⟩) = entriesTaken s + 1 := by
    rw [entriesTaken_of_read hs hc, entriesTaken_of_read (s := (triggerSde a (popRx s)).setHoe ⟨false⟩) hs hc, hstart]
    rfl
  exact ⟨by simp [OneDirection, hrve'], by simp [IdleHalted, hs], hpatch, hunits, hcmd, hfilter,
    by simp [EnginesFit, Reading, readXferCount, hs, hc, hrve'],
    inboundFits_of_pop hin hfifo rfl (by simp [hfifo]) (.inl htaken) (by simp [hs]), hout⟩

/-- `MemWrite` touches the array and the record of faults only. -/
theorem storeByte_eq (a : Nat) (v : Byte) (s : State) :
    storeByte a v s = (s.setMem (storeByte a v s).mem).setFaults (storeByte a v s).faults := by
  rcases storeByte_spec s a v with ⟨-, h⟩ | ⟨-, h⟩
  · rw [h]; rfl
  · rw [h]
    rcases raiseFault_spec s (.writeOutOfRange a) with ⟨h, -⟩ | ⟨h, -⟩ <;> rw [h] <;> rfl

/-- The unit of the send-side engine has the bits of one pull (R92). -/
theorem PatchPaired.unit_bits {s : State} (h : PatchPaired s) : 8 * s.sde.unit.bytes = s.tx.pull.bits := by
  obtain ⟨hunit, hpull, -⟩ := h
  have hboth : s.sde.unit = .w8 ↔ s.tx.pull = .p8 := hunit.symm.trans hpull
  cases hu : s.sde.unit <;> cases hp : s.tx.pull <;> simp [hu, hp, SdeUnit.bytes, Pull.bits] at hboth ⊢

theorem runningInv_sdeNext {s : State} (h : RunningInv s) (hbusy : s.sde.busy = true) (hfull : txFull s = false) :
    RunningInv (sdeNext s) := by
  have hroom : s.tx.fifo.length < s.cfg.txDepth := by simpa [txFull] using hfull
  obtain ⟨hone, -, hpatch, ⟨hsized, -⟩, hcmd, hfilter, ⟨hhoe, hsde, hrve⟩, hin, hen, hcnt, hentry, hshift, hdummy,
    -⟩ := h
  obtain ⟨hs, hread, hpos, hle⟩ := hsde hbusy
  have hunit := hpatch.unit_bits
  unfold sdeNext
  rw [loadBytes_state]
  refine ⟨fun hb => hone ⟨hbusy, hb.2⟩, by simp [IdleHalted, hs], hpatch, ⟨?_, ?_⟩, hcmd, hfilter,
    ⟨fun hb => ?_, fun hb => ⟨hs, hread, ?_, ?_⟩, hrve⟩, hin, hen, hcnt, hentry, hshift, hdummy, fun _ => ⟨hs, hread⟩⟩
  · simpa [or_imp, forall_and, hunit] using hsized
  · simpa using hroom
  · simpa [hbusy] using (hhoe hb).2.2
  · simp at hb ⊢; omega
  · simp; omega

theorem runningInv_rveNext {s : State} {e : RxEntry} {es : List RxEntry} (h : RunningInv s)
    (hfifo : s.rx.fifo = e :: es) (hbusy : s.rve.busy = true) : RunningInv (rveNext e s) := by
  obtain ⟨hone, -, hpatch, hunits, hcmd, hfilter, ⟨hhoe, hsde, hrve⟩, hin, hout⟩ := h
  obtain ⟨hs, hc, hpos⟩ := hrve hbusy
  have hsde' : s.sde.busy = false := Bool.eq_false_iff.2 fun hb => hone ⟨hb, hbusy⟩
  have htaken : entriesTaken s = 2 := entriesTaken_of_write hs hc
  unfold rveNext
  rw [storeByte_eq]
  refine ⟨by simp [OneDirection, hsde'], by simp [IdleHalted, hs], hpatch, hunits, hcmd, hfilter,
    ⟨hhoe, hsde, fun hb => ⟨hs, hc, ?_⟩⟩,
    inboundFits_of_pop hin hfifo rfl (by simp [hfifo]) (.inr ⟨htaken, htaken⟩) (by simp [hs]), hout⟩
  exact Nat.pos_of_ne_zero (of_decide_eq_true hb)

/-! ### The shifters at a clock edge -/

/-- `RXSM` at a `Clock` event (R81). -/
theorem runningInv_rxClock {s : State} (b : Bool) (h : RunningInv s) (hst : s.rx.stalled = false) :
    RunningInv (rxClock b s) := by
  obtain ⟨hone, hidle, hpatch, hunits, hcmd, hfilter, heng, hin, hout⟩ := h
  rcases rxClock_hold_cases b s with ⟨hmore, hclock⟩ | ⟨hword, hclock | ⟨hfull, hclock⟩⟩ <;> rw [hclock]
  · exact ⟨hone, hidle, hpatch, hunits, hcmd, hfilter, heng, inboundFits_rxShiftIn b hin hst hmore, hout⟩
  · exact ⟨hone, hidle, hpatch, hunits, hcmd, hfilter, heng, inboundFits_rxHold b hin hword, hout⟩
  · exact ⟨hone, hidle, hpatch, hunits, hcmd, hfilter, heng,
      inboundFits_rxPush (inboundFits_rxHold b hin hword) rfl hfull, hout⟩

theorem bytesBits_length (e : List Byte) : (bytesBits e).length = 8 * e.length := by
  induction e with
  | nil => rfl
  | cons b e ih =>
    have hbyte : (byteBits b).length = 8 := rfl
    have hcons : bytesBits (b :: e) = byteBits b ++ bytesBits e := rfl
    rw [hcons, List.length_append, hbyte, ih, List.length_cons]
    omega

theorem txShiftOut_state (s : State) : (txShiftOut s).2 = s.setTx { s.tx with osr := s.tx.osr.tail } := by
  unfold txShiftOut
  cases hosr : s.tx.osr with
  | nil => exact congrArg s.setTx (by rw [List.tail_nil, ← hosr])
  | cons b rest => rfl

/-- The first unit: awaited, or pulled on entering the configured slot (R91). -/
theorem txFirst_cases {s t : State} {o : So} (h : txFirst s = .ok (o, t)) :
    t.tx = s.tx ∨
    ∃ e es, s.tx.fifo = e :: es ∧ 8 * e.length = s.tx.pull.bits ∧
      (s.tx.jump = .fast ∧ t.tx = { s.tx with ip := .dummy, dly := 7, osr := unitBits e, fifo := es } ∨
        t.tx = { s.tx with ip := .shift, osr := (unitBits e).tail, fifo := es }) := by
  unfold txFirst at h
  cases hfifo : s.tx.fifo with
  | nil =>
    rw [hfifo] at h
    cases h
    exact .inl rfl
  | cons e es =>
    rw [hfifo] at h
    dsimp only at h
    cases hpull : txPull e s with
    | error f => rw [hpull] at h; cases h
    | ok u =>
      obtain ⟨hsize, rfl⟩ := txPull_eq_ok.1 hpull
      rw [hpull] at h
      refine .inr ⟨e, es, rfl, hsize, ?_⟩
      cases hjump : s.tx.jump with
      | fast =>
        simp only [hjump, Except.ok.injEq] at h
        cases h
        exact .inl ⟨rfl, by simp [txEnterDummy, hfifo, hjump]⟩
      | normal =>
        simp only [hjump, Except.ok.injEq] at h
        obtain rfl : _ = t := congrArg Prod.snd h
        exact .inr (by rw [txShiftOut_state]; simp [txEnterShift, hfifo, hjump])

/-- The shifting position: a bit leaves, after a pull if the shift register was empty, or the queue is dry (R91). -/
theorem txNext_cases {s t : State} {o : So} (h : txNext s = .ok (o, t)) :
    t.tx = { s.tx with osr := s.tx.osr.tail } ∨
    ∃ e es, s.tx.fifo = e :: es ∧ 8 * e.length = s.tx.pull.bits ∧
      t.tx = { s.tx with osr := (unitBits e).tail, fifo := es } := by
  unfold txNext at h
  split at h
  case h_1 =>
    obtain rfl : _ = t := congrArg Prod.snd (Except.ok.inj h)
    exact .inl (by rw [txShiftOut_state]; rfl)
  case h_2 hosr _ =>
    cases h
    exact .inl (by rw [hosr, List.tail_nil, ← hosr])
  case h_3 e es _ hfifo =>
    cases hpull : txPull e s with
    | error f => rw [hpull] at h; cases h
    | ok u =>
      obtain ⟨hsize, rfl⟩ := txPull_eq_ok.1 hpull
      rw [hpull] at h
      obtain rfl : _ = t := congrArg Prod.snd (Except.ok.inj h)
      exact .inr ⟨e, es, hfifo, hsize, by rw [txShiftOut_state]; simp [hfifo]⟩

/-- What a clock edge does to the outbound path: it pulls no unit, or takes the head of the queue. -/
theorem txClock_cases {s t : State} {o : So} (h : txClock s = .ok (o, t)) :
    t.tx = s.tx ∨
    s.tx.ip = .shift ∧ t.tx = { s.tx with osr := s.tx.osr.tail } ∨
    s.tx.ip = .dummy ∧
      t.tx = { s.tx with dly := s.tx.dly - 1, ip := if s.tx.dly - 1 = 0 then .shift else .dummy } ∨
    ∃ e es, s.tx.fifo = e :: es ∧ 8 * e.length = s.tx.pull.bits ∧
      (s.tx.jump = .fast ∧ t.tx = { s.tx with ip := .dummy, dly := 7, osr := unitBits e, fifo := es } ∨
        s.tx.ip ≠ .dummy ∧ t.tx = { s.tx with ip := .shift, osr := (unitBits e).tail, fifo := es }) := by
  unfold txClock at h
  cases hip : s.tx.ip with
  | entry =>
    rw [hip] at h
    rcases txFirst_cases h with htx | ⟨e, es, hfifo, hsize, hfast | htx⟩
    · exact .inl htx
    · exact .inr (.inr (.inr ⟨e, es, hfifo, hsize, .inl hfast⟩))
    · exact .inr (.inr (.inr ⟨e, es, hfifo, hsize, .inr ⟨nofun, htx⟩⟩))
  | dummy =>
    rw [hip] at h
    cases h
    exact .inr (.inr (.inl ⟨rfl, rfl⟩))
  | shift =>
    rw [hip] at h
    rcases txNext_cases h with htx | ⟨e, es, hfifo, hsize, htx⟩
    · exact .inr (.inl ⟨rfl, htx⟩)
    · exact .inr (.inr (.inr ⟨e, es, hfifo, hsize, .inr ⟨nofun, by simp [htx, hip]⟩⟩))

/-- `TXSM` at a `Clock` event (R91). -/
theorem runningInv_txClock {s t : State} {o : So} (h : RunningInv s) (ht : txClock s = .ok (o, t)) :
    RunningInv t := by
  obtain ⟨hone, hidle, hpatch, ⟨hsized, hlen⟩, hcmd, hfilter, heng, hin, hen, hcnt, hentry, hshift, hdummy, hout⟩ := h
  rw [txClock_only_tx ht]
  rcases txClock_cases ht with htx | ⟨hip, htx⟩ | ⟨hip, htx⟩ | ⟨e, es, hfifo, hsize, hpull⟩
  · rw [htx]
    exact ⟨hone, hidle, hpatch, ⟨hsized, hlen⟩, hcmd, hfilter, heng, hin, hen, hcnt, hentry, hshift, hdummy, hout⟩
  · rw [htx]
    have hcnt' : s.tx.osr.tail.length ≤ s.tx.pull.bits := (List.tail_sublist _).length_le.trans hcnt
    exact ⟨hone, hidle, hpatch, ⟨hsized, hlen⟩, hcmd, hfilter, heng, hin, hen, hcnt',
      fun hip' => absurd (hip.symm.trans hip') nofun, hshift, hdummy, hout⟩
  · obtain ⟨hpos, hle, hjump⟩ := hdummy hip
    have hread := hout (.inl (by simp [hip]))
    rw [htx]
    refine ⟨hone, hidle, hpatch, ⟨hsized, hlen⟩, hcmd, hfilter, heng, hin, hen, hcnt, ?_, ?_, ?_, fun _ => hread⟩
    · simp only [State.setDraws_tx, State.setTx_tx]; split <;> nofun
    · simp
    · simp only [State.setDraws_tx, State.setTx_tx]
      intro hip'
      split at hip'
      · cases hip'
      · exact ⟨by omega, by omega, hjump⟩
  · have hread := hout (.inr (by simp [hfifo]))
    rw [hfifo] at hsized hlen
    have hsized' : (∀ f ∈ es, 8 * f.length = s.tx.pull.bits) ∧ es.length ≤ s.cfg.txDepth :=
      ⟨fun f hf => hsized f (List.mem_cons_of_mem _ hf), Nat.le_of_succ_le hlen⟩
    have hbits : (unitBits e).length = s.tx.pull.bits := (bytesBits_length e).trans hsize
    rcases hpull with ⟨hjump, htx⟩ | ⟨hip, htx⟩ <;> rw [htx]
    · exact ⟨hone, hidle, hpatch, hsized', hcmd, hfilter, heng, hin, hen, hbits.le, nofun, nofun,
        fun _ => ⟨by simp, by simp, hjump⟩, fun _ => hread⟩
    · have hdly : s.tx.dly = 0 := by
        cases hip' : s.tx.ip with
        | entry => exact (hentry hip').2
        | shift => exact hshift hip'
        | dummy => exact absurd hip' hip
      exact ⟨hone, hidle, hpatch, hsized', hcmd, hfilter, heng, hin, hen,
        (List.tail_sublist _).length_le.trans hbits.le, nofun, fun _ => hdly, nofun, fun _ => hread⟩

/-- A sample counts to 2 at most, and is taken only where the filter is armed (R118). -/
theorem runningInv_dispSample {s : State} (h : RunningInv s) : RunningInv (dispSample s) := by
  obtain ⟨hone, hidle, hpatch, hunits, hcmd, hfilter, heng, hin, hout⟩ := h
  rcases dispSample_spec s with ⟨hsample, heq⟩ | ⟨-, heq⟩ <;> rw [heq]
  · have hfilter' : FilterOk (s.setDisp { s.disp with hi := if s.csn then s.disp.hi + 1 else 0 }) := by
      simp only [sampleEnabled, Bool.and_eq_true, Bool.or_eq_true, decide_eq_true_eq] at hsample
      obtain ⟨⟨-, hlt⟩, hstate⟩ := hsample
      refine ⟨?_, fun hs => ?_⟩
      · simp only [State.setDisp_disp]; split <;> omega
      · simp only [State.setDisp_disp] at hs
        rcases hstate with (hw | hw) | ⟨hw, -⟩ <;> simp [hw] at hs
    exact ⟨hone, hidle, hpatch, hunits, hcmd, hfilter', heng, hin, hout⟩
  · exact ⟨hone, hidle, hpatch, hunits, hcmd, hfilter, heng, hin, hout⟩

end Sys2Proof.Machine
end

section
/-!
The whole invariant (`10_state.md` R39): the array and the record of faults stay in form, the control part is kept by
every internal step, and no machine settles in `RESET_PIPELINES`; so every event keeps it, and every step.
-/
namespace Sys2Proof.Machine

/-! ### The build, the array and the record of faults -/

/-- The part of the invariant that holds in every phase. -/
def StorageInv (s : State) : Prop :=
  s.cfg.wf ∧ Memory.wf s.cfg.preserve s.cfg.memSize s.mem ∧ s.faults.Nodup

theorem inv_iff (s : State) : Inv s ↔ StorageInv s ∧ (s.sys.phase = .running → RunningInv s) :=
  ⟨fun ⟨hwf, hmem, hfaults, hrunning⟩ => ⟨⟨hwf, hmem, hfaults⟩, hrunning⟩,
    fun ⟨⟨hwf, hmem, hfaults⟩, hrunning⟩ => ⟨hwf, hmem, hfaults, hrunning⟩⟩

theorem StorageInv.congr {s t : State} (h : StorageInv s) (hcfg : t.cfg = s.cfg) (hmem : t.mem = s.mem)
    (hfaults : t.faults = s.faults) : StorageInv t := by
  unfold StorageInv
  rwa [hcfg, hmem, hfaults]

theorem storageInv_raiseFault {s : State} (f : SpecFault) (h : StorageInv s) : StorageInv (raiseFault f s) := by
  obtain ⟨hwf, hmem, hfaults⟩ := h
  exact ⟨by simpa using hwf, by simpa using hmem, raiseFault_nodup f hfaults⟩

theorem storageInv_storeByte {s : State} (a : Nat) (v : Byte) (h : StorageInv s) : StorageInv (storeByte a v s) := by
  obtain ⟨hwf, hmem, hfaults⟩ := h
  exact ⟨by simpa using hwf, by simpa using storeByte_wf a v hmem, storeByte_nodup a v hfaults⟩

theorem dispStep_keeps_mem_faults {s t : State} (h : dispStep s = some t) : t.mem = s.mem ∧ t.faults = s.faults := by
  rcases dispStep_cases h with ⟨-, -, rfl⟩ | ⟨e, es, -, -, rfl⟩ | ⟨-, rfl⟩ | ⟨-, rfl⟩ | ⟨-, -, rfl⟩ |
    ⟨e, es, -, -, -, -, rfl⟩ | ⟨e, es, -, -, -, rfl⟩ | ⟨-, -, hend⟩ | ⟨-, rfl⟩
  pick_goal 8
  · rcases endEntry_cases hend with ⟨-, rfl⟩ | ⟨-, rfl⟩ | ⟨-, -, rfl⟩ | ⟨-, rfl⟩ <;> simp
  all_goals simp

/-! ### Internal steps -/

/-- The invariant while internal steps are taken: the dispatcher may be in `RESET_PIPELINES`. -/
def SettlingInv (s : State) : Prop := StorageInv s ∧ (s.sys.phase = .running → ServingInv s)

theorem servingInv_internal {s t : State} (hwf : s.cfg.wf) (h : ServingInv s) (ht : internal s = some t) :
    ServingInv t := by
  obtain ⟨-, hstep | hstep | hstep | hstep | hstep⟩ := internal_cases ht
  · obtain ⟨hst, hfull, rfl⟩ := rxUnstall_eq_some.1 hstep
    exact servingInv_rxPush h hst hfull
  · obtain ⟨e, es, hfifo, hstart, -, rfl⟩ := hoeStep_eq_some.1 hstep
    rcases h with h | ⟨-, hhoe, -⟩
    · exact .inl (runningInv_handOff _ h hfifo hstart)
    · simp [hhoe] at hstart
  · obtain ⟨hbusy, -, hfull, rfl⟩ := sdeStep_eq_some.1 hstep
    rcases h with h | ⟨-, -, hsde, -⟩
    · exact .inl (runningInv_sdeNext h hbusy hfull)
    · simp [hsde] at hbusy
  · obtain ⟨e, es, hfifo, hbusy, -, rfl⟩ := rveStep_eq_some.1 hstep
    rcases h with h | ⟨-, -, -, hrve, -⟩
    · exact .inl (runningInv_rveNext h hfifo hbusy)
    · simp [hrve] at hbusy
  · exact servingInv_dispStep hwf h hstep

theorem storageInv_internal {s t : State} (h : StorageInv s) (ht : internal s = some t) : StorageInv t := by
  obtain ⟨-, hstep | hstep | hstep | hstep | hstep⟩ := internal_cases ht
  · obtain ⟨-, -, rfl⟩ := rxUnstall_eq_some.1 hstep
    exact h.congr rfl rfl rfl
  · obtain ⟨e, es, -, -, -, rfl⟩ := hoeStep_eq_some.1 hstep
    exact h.congr rfl rfl rfl
  · obtain ⟨-, -, -, rfl⟩ := sdeStep_eq_some.1 hstep
    exact h.congr (by simp [sdeNext]) (by simp [sdeNext]) (by simp [sdeNext])
  · obtain ⟨e, es, -, -, -, rfl⟩ := rveStep_eq_some.1 hstep
    exact storageInv_storeByte s.rve.waddr (dataByte e) (h.congr (t := popRx s) rfl rfl rfl)
  · obtain ⟨hmem, hfaults⟩ := dispStep_keeps_mem_faults hstep
    exact h.congr (dispStep_keeps_cfg_sys hstep).1 hmem hfaults

theorem settlingInv_internal (s t : State) (h : SettlingInv s) (ht : internal s = some t) : SettlingInv t := by
  obtain ⟨hstorage, hserving⟩ := h
  have hrun : s.sys.phase = .running := (internal_cases ht).1
  exact ⟨storageInv_internal hstorage ht, fun _ => servingInv_internal hstorage.1 (hserving hrun) ht⟩

/-- A quiescent machine is not in `RESET_PIPELINES`: the reset is always enabled there. -/
theorem inv_of_settlingInv {s : State} (h : SettlingInv s) (hq : Quiescent s) : Inv s := by
  obtain ⟨hstorage, hserving⟩ := h
  refine (inv_iff s).2 ⟨hstorage, fun hrun => ?_⟩
  rcases hserving hrun with hinv | ⟨hreset, -⟩
  · exact hinv
  · obtain ⟨-, -, -, -, hdisp⟩ := (quiescent_iff hrun).1 hq
    simp [dispStep, hreset] at hdisp

/-- Internal steps, run to quiescence, keep the invariant. -/
theorem inv_settle {s : State} (h : Inv s) : Inv (settle s) := by
  obtain ⟨hstorage, hrunning⟩ := (inv_iff s).1 h
  exact inv_of_settlingInv (settle_induction settlingInv_internal ⟨hstorage, fun hrun => .inl (hrunning hrun)⟩)
    (settle_quiescent s)

/-! ### Events -/

theorem runningInv_raiseFault {s : State} (f : SpecFault) (h : RunningInv s) : RunningInv (raiseFault f s) := by
  rcases raiseFault_spec s f with ⟨heq, -⟩ | ⟨heq, -⟩ <;> rw [heq] <;> exact h

theorem inv_raiseFault {s : State} (f : SpecFault) (h : Inv s) : Inv (raiseFault f s) := by
  obtain ⟨hstorage, hrunning⟩ := (inv_iff s).1 h
  exact (inv_iff _).2 ⟨storageInv_raiseFault f hstorage,
    fun hrun => runningInv_raiseFault f (hrunning (by simpa using hrun))⟩

theorem inv_storeByte {s : State} (a : Nat) (v : Byte) (h : Inv s) : Inv (storeByte a v s) := by
  obtain ⟨hstorage, hrunning⟩ := (inv_iff s).1 h
  refine (inv_iff _).2 ⟨storageInv_storeByte a v hstorage, fun hrun => ?_⟩
  have hrun' : s.sys.phase = .running := by simpa using hrun
  rw [storeByte_eq]
  exact hrunning hrun'

/-- The invariant does not read the select line, the inbox, the outputs or the draw counter. -/
theorem inv_setCsn {s : State} (v : Bool) (h : Inv s) : Inv (s.setCsn v) := h
theorem inv_setInbox {s : State} (v : List Input) (h : Inv s) : Inv (s.setInbox v) := h
theorem inv_emit {s : State} (o : Output) (h : Inv s) : Inv (emit o s) := h
theorem inv_hostDraw {s : State} (i : Nat) (h : Inv s) : Inv (hostDraw i s) := h

theorem inv_selectFall {s : State} (h : Inv s) : Inv (selectFall s) := by
  unfold selectFall
  split
  · exact inv_raiseFault _ (inv_setCsn false h)
  · exact inv_settle (inv_setCsn false h)
  · exact h

theorem inv_selectRise {s : State} (h : Inv s) : Inv (selectRise s) := by
  unfold selectRise
  split
  · exact inv_setCsn true h
  · split
    · exact inv_settle (inv_raiseFault _ (inv_setCsn true h))
    · exact inv_settle (inv_setCsn true h)
  · exact h

theorem inv_rxClock {s : State} (b : Bool) (h : Inv s) (hst : s.rx.stalled = false) : Inv (rxClock b s) := by
  obtain ⟨hstorage, hrunning⟩ := (inv_iff s).1 h
  have honly := rxClock_only_rx s b
  refine (inv_iff _).2 ⟨hstorage.congr ?_ ?_ ?_, fun hrun => runningInv_rxClock b (hrunning ?_) hst⟩
  · rw [honly]; rfl
  · rw [honly]; rfl
  · rw [honly]; rfl
  · simpa using hrun

theorem inv_txClock {s t : State} {o : So} (h : Inv s) (ht : txClock s = .ok (o, t)) : Inv t := by
  obtain ⟨hstorage, hrunning⟩ := (inv_iff s).1 h
  have honly := txClock_only_tx ht
  refine (inv_iff _).2 ⟨hstorage.congr ?_ ?_ ?_, fun hrun => runningInv_txClock (hrunning ?_) ht⟩
  · rw [honly]; rfl
  · rw [honly]; rfl
  · rw [honly]; rfl
  · rwa [(txClock_keeps_cfg_sys ht).2] at hrun

theorem inv_clockRest {s : State} (b : Bool) (o : So) (h : Inv s) : Inv (clockRest b o s) := by
  unfold clockRest
  refine inv_emit _ (inv_settle ?_)
  split
  case isTrue hen =>
    simp only [rxEnabled, Bool.and_eq_true, Bool.not_eq_true'] at hen
    exact inv_rxClock b h hen.2
  case isFalse => exact h

theorem inv_clock {s t : State} {b : Bool} (h : Inv s) (ht : clock b s = .next t) : Inv t := by
  unfold clock at ht
  split at ht
  case h_1 => cases ht; exact inv_emit _ (inv_raiseFault _ h)
  case h_2 => cases ht; exact inv_emit _ h
  case h_3 =>
    split at ht
    · split at ht
      case h_1 r hr => cases ht; exact inv_clockRest b r.1 (inv_txClock h hr)
      case h_2 => cases ht
    · cases ht; exact inv_clockRest b .idle h

theorem inv_sample {s : State} (h : Inv s) : Inv (sample s) := by
  unfold sample
  split
  · refine inv_settle ((inv_iff _).2 ?_)
    obtain ⟨hstorage, hrunning⟩ := (inv_iff s).1 h
    refine ⟨?_, fun hrun => runningInv_dispSample (hrunning (by simpa using hrun))⟩
    rcases dispSample_spec s with ⟨-, heq⟩ | ⟨-, heq⟩ <;> rw [heq]
    · exact hstorage.congr rfl rfl rfl
    · exact hstorage
  · exact h

theorem inv_hostRead {s : State} (i : Nat) (h : Inv s) : Inv (hostRead i s) := by
  unfold hostRead
  split
  · split
    · exact inv_emit _ h
    · exact inv_hostDraw i h
  · split
    · exact inv_hostDraw i h
    · exact inv_hostDraw i (inv_raiseFault _ h)

theorem inv_hostWrite {s : State} (i : Nat) (v : Byte) (h : Inv s) : Inv (hostWrite i v s) := by
  unfold hostWrite
  split
  · exact inv_storeByte i v h
  · split
    · exact h
    · exact inv_raiseFault _ h

/-- Setup clears the array to the pattern, whose listing is empty, or keeps it (R172). -/
theorem storageInv_setupFill {s : State} (h : StorageInv s) : StorageInv (setupFill s) := by
  obtain ⟨hwf, hmem, hfaults⟩ := h
  unfold setupFill
  split
  · exact ⟨hwf, hmem, hfaults⟩
  · exact ⟨hwf, nil_wf _ _, hfaults⟩

theorem inv_setupLaunch {s : State} (h : StorageInv s) : Inv (setupLaunch (setupConfigure s)) :=
  (inv_iff _).2 ⟨h.congr rfl rfl rfl, fun _ => runningInv_initial rfl rfl rfl rfl rfl rfl rfl⟩

theorem inv_setupCheckBus {s : State} (h : Inv s) : Inv (setupCheckBus s) := by
  unfold setupCheckBus
  split
  · exact h
  · exact inv_raiseFault _ h

theorem inv_setupRun {s : State} (ok : Bool) (h : Inv s) : Inv (setupRun ok s) := by
  have hfill : StorageInv (setupFill s) := storageInv_setupFill ((inv_iff s).1 h).1
  cases ok with
  | false =>
    have hhalted : (setupRun false s).sys.phase ≠ .running := by simp [setupRun_sys]
    exact (inv_iff _).2 ⟨hfill.congr rfl rfl rfl, fun hrun => absurd hrun hhalted⟩
  | true =>
    have hlaunch : setupRun true s = setupCheckBus (setupLaunch (setupConfigure (setupFill s))) := rfl
    rw [hlaunch]
    exact inv_setupCheckBus (inv_setupLaunch hfill)

theorem inv_setup {s t : State} {ok : Bool} (h : Inv s) (ht : setup ok s = .next t) : Inv t := by
  unfold setup at ht
  split at ht
  case h_1 => cases ht; exact inv_settle (inv_setupRun ok h)
  case h_2 => cases ht
  case h_3 => cases ht

theorem inv_doEvent {e : Event} {s t : State} (h : Inv s) (ht : doEvent e s = .next t) : Inv t := by
  cases e with
  | setup ok => exact inv_setup h ht
  | selectFall => cases ht; exact inv_selectFall h
  | selectRise => cases ht; exact inv_selectRise h
  | clock b => exact inv_clock h ht
  | sample => cases ht; exact inv_sample h
  | hostRead i => cases ht; exact inv_hostRead i h
  | hostWrite i v => cases ht; exact inv_hostWrite i v h

theorem inv_doEvents {es : List Event} {s t : State} (h : Inv s) (ht : doEvents es s = .next t) : Inv t := by
  induction es generalizing s with
  | nil => cases ht; exact h
  | cons e es ih =>
    obtain ⟨u, hu, htail⟩ := andThen_eq_next.1 ht
    exact ih (inv_doEvent h hu) htail

/-- Settles O55: a step is a sample, an event or a frame's events, and each of them keeps the invariant. -/
theorem stepKeepsInvariant : Obligations.StepKeepsInvariant := by
  intro s t h ht
  cases hin : s.inbox with
  | nil =>
    rw [step_of_inbox_nil hin] at ht
    cases ht
    exact inv_sample h
  | cons input rest =>
    cases input with
    | event e =>
      rw [step_of_inbox_event hin] at ht
      exact inv_doEvent (inv_setInbox rest h) ht
    | frame bits =>
      rw [step_of_inbox_frame hin] at ht
      exact inv_doEvents (inv_setInbox rest h) ht

/-- Settles O54: nothing is engaged, patched or queued at reset. -/
theorem resetHasInvariant : Obligations.ResetHasInvariant :=
  (inv_iff _).2 ⟨⟨by decide, reset_memory_wf, List.nodup_nil⟩,
    fun _ => runningInv_initial rfl rfl rfl rfl rfl rfl rfl⟩

end Sys2Proof.Machine
end

section
/-!
Quiescence is kept by every step (`41_write_pipeline.md` R99), and what a quiescent machine with the invariant is in
`IDLE` (`10_state.md` R39 (c), `43_dispatcher.md` R122).
-/
namespace Sys2Proof.Machine

/-! ### Quiescence -/

theorem quiescent_emit {s : State} (o : Output) (h : Quiescent s) : Quiescent (emit o s) :=
  (quiescent_congr (s := s) (t := emit o s) rfl rfl rfl rfl rfl rfl rfl rfl rfl rfl rfl).2 h

theorem quiescent_setInbox {s : State} (v : List Input) (h : Quiescent s) : Quiescent (s.setInbox v) :=
  (quiescent_congr (s := s) (t := s.setInbox v) rfl rfl rfl rfl rfl rfl rfl rfl rfl rfl rfl).2 h

theorem quiescent_hostDraw {s : State} (i : Nat) (h : Quiescent s) : Quiescent (hostDraw i s) :=
  (quiescent_congr (s := s) (t := hostDraw i s) rfl rfl rfl rfl rfl rfl rfl rfl rfl rfl rfl).2 h

theorem quiescent_raiseFault {s : State} (f : SpecFault) (h : Quiescent s) : Quiescent (raiseFault f s) := by
  refine (quiescent_congr (s := s) ?_ ?_ ?_ ?_ ?_ ?_ ?_ ?_ ?_ ?_ ?_).2 h <;> simp

theorem quiescent_storeByte {s : State} (a : Nat) (v : Byte) (h : Quiescent s) : Quiescent (storeByte a v s) := by
  refine (quiescent_congr (s := s) ?_ ?_ ?_ ?_ ?_ ?_ ?_ ?_ ?_ ?_ ?_).2 h <;> simp

theorem quiescent_clock {s t : State} {b : Bool} (ht : clock b s = .next t) : Quiescent t := by
  have hrest : ∀ (o : So) (u : State), Quiescent (clockRest b o u) := fun _ _ => quiescent_emit _ (settle_quiescent _)
  unfold clock at ht
  split at ht
  case h_1 hp => cases ht; exact quiescent_of_not_running (by simp [hp])
  case h_2 hp => cases ht; exact quiescent_of_not_running (by simp [hp])
  case h_3 =>
    split at ht
    · split at ht
      case h_1 => cases ht; exact hrest _ _
      case h_2 => cases ht
    · cases ht; exact hrest _ _

theorem quiescent_selectFall (s : State) : Quiescent (selectFall s) := by
  unfold selectFall
  split
  case h_1 hp => exact quiescent_of_not_running (by simp [hp])
  case h_2 => exact settle_quiescent _
  case h_3 hp => exact quiescent_of_not_running (by simp [hp])

theorem quiescent_selectRise (s : State) : Quiescent (selectRise s) := by
  unfold selectRise
  split
  case h_1 hp => exact quiescent_of_not_running (by simp [hp])
  case h_2 => exact settle_quiescent _
  case h_3 hp => exact quiescent_of_not_running (by simp [hp])

theorem quiescent_sample (s : State) : Quiescent (sample s) := by
  unfold sample
  split
  case isTrue => exact settle_quiescent _
  case isFalse hrun => exact quiescent_of_not_running (by simpa [running] using hrun)

theorem quiescent_setup {s t : State} {ok : Bool} (ht : setup ok s = .next t) : Quiescent t := by
  unfold setup at ht
  split at ht
  case h_1 => cases ht; exact settle_quiescent _
  case h_2 => cases ht
  case h_3 => cases ht

theorem quiescent_hostRead {s : State} (i : Nat) (h : Quiescent s) : Quiescent (hostRead i s) := by
  unfold hostRead
  split
  · split
    · exact quiescent_emit _ h
    · exact quiescent_hostDraw i h
  · split
    · exact quiescent_hostDraw i h
    · exact quiescent_hostDraw i (quiescent_raiseFault _ h)

theorem quiescent_hostWrite {s : State} (i : Nat) (v : Byte) (h : Quiescent s) : Quiescent (hostWrite i v s) := by
  unfold hostWrite
  split
  · exact quiescent_storeByte i v h
  · split
    · exact h
    · exact quiescent_raiseFault _ h

/-- The bus events and setup settle the machine; a host access enables nothing. -/
theorem quiescent_doEvent {e : Event} {s t : State} (h : Quiescent s) (ht : doEvent e s = .next t) : Quiescent t := by
  cases e with
  | setup ok => exact quiescent_setup ht
  | selectFall => cases ht; exact quiescent_selectFall s
  | selectRise => cases ht; exact quiescent_selectRise s
  | clock b => exact quiescent_clock ht
  | sample => cases ht; exact quiescent_sample s
  | hostRead i => cases ht; exact quiescent_hostRead i h
  | hostWrite i v => cases ht; exact quiescent_hostWrite i v h

theorem quiescent_doEvents {es : List Event} {s t : State} (h : Quiescent s) (ht : doEvents es s = .next t) :
    Quiescent t := by
  induction es generalizing s with
  | nil => cases ht; exact h
  | cons e es ih =>
    obtain ⟨u, hu, htail⟩ := andThen_eq_next.1 ht
    exact ih (quiescent_doEvent h hu) htail

theorem quiescent_step {s t : State} (h : Quiescent s) (ht : step s = .next t) : Quiescent t := by
  cases hin : s.inbox with
  | nil =>
    rw [step_of_inbox_nil hin] at ht
    cases ht
    exact quiescent_sample s
  | cons input rest =>
    cases input with
    | event e =>
      rw [step_of_inbox_event hin] at ht
      exact quiescent_doEvent (quiescent_setInbox rest h) ht
    | frame bits =>
      rw [step_of_inbox_frame hin] at ht
      exact quiescent_doEvents (quiescent_setInbox rest h) ht

/-! ### `IDLE` -/

/-- A quiescent dispatcher in `IDLE` has nothing to wake it (R111). -/
theorem Quiescent.idle_fifo {s : State} (hq : Quiescent s) (hrun : s.sys.phase = .running)
    (hs : s.disp.state = .idle) : s.rx.fifo = [] := by
  obtain ⟨-, -, -, -, hdisp⟩ := (quiescent_iff hrun).1 hq
  simpa [dispStep, dispWake, hs] using hdisp

/-- Nothing engaged and no patch: the outbound path as setup leaves it. -/
theorem tx_eq_initial {s : State} (hdis : Disengaged s) (hunp : Unpatched s) : s.tx = Tx.initial := by
  obtain ⟨-, -, -, hen, hip, hdly, hosr, hfifo⟩ := hdis
  obtain ⟨hjump, hpull, -⟩ := hunp
  cases htx : s.tx
  simp_all [Tx.initial]

/-- In `IDLE` with an empty queue the inbound shifter collects a command byte. -/
theorem inbound_idle {s : State} (hwf : s.cfg.wf) (h : InboundFits s) (hs : s.disp.state = .idle)
    (hfifo : s.rx.fifo = []) (hunstall : rxUnstall s = none) :
    s.rx.ip = .entry ∧ s.rx.isr.length < 8 ∧ s.rx.stalled = false ∧ s.rx.addrDone = false := by
  obtain ⟨-, -, -, hcnt, hdone, -, haddr, hdata, -, -⟩ := h
  obtain ⟨hdepth, -, -⟩ := hwf
  have hip : s.rx.ip = .entry := by
    cases hip : s.rx.ip with
    | entry => rfl
    | addr => simpa [entriesTaken_of_idle hs, hfifo] using haddr hip
    | data => simpa [entriesTaken_of_idle hs, hfifo] using hdata hip
  have hroom : rxFull s = false := by simp [rxFull, hfifo]; omega
  have hst : s.rx.stalled = false := by simpa [rxUnstall, hroom] using hunstall
  have hcollect : s.rx.isr.length < 8 := by simpa [rxCnt, hip, rxTarget] using hcnt hst
  have haddrDone : s.rx.addrDone = false := by simpa [hip] using hdone
  exact ⟨hip, hcollect, hst, haddrDone⟩

/-- Settles O59: the machine after the step has the invariant and is quiescent, and in `IDLE` that leaves nothing
engaged, patched or queued. -/
theorem idleIsQuietAndUnpatched : Obligations.IdleIsQuietAndUnpatched := by
  intro s t h hq ht hrun hs
  have hqt : Quiescent t := quiescent_step hq ht
  obtain ⟨hwf, -, -, hrunning⟩ := stepKeepsInvariant s t h ht
  have hinv : RunningInv t := hrunning hrun
  have hfifo : t.rx.fifo = [] := hqt.idle_fifo hrun hs
  have hdis : Disengaged t := hinv.disengaged (by simp [hs])
  obtain ⟨-, -, hpatch, -, ⟨hnone, -⟩, ⟨-, hhi⟩, -, hin, -⟩ := hinv
  have hunp : Unpatched t := hpatch.unpatched (by simp [hnone (.inl hs)])
  obtain ⟨hip, hcnt, hst, hdone⟩ := inbound_idle hwf hin hs hfifo ((quiescent_iff hrun).1 hqt).1
  have htx : t.tx = Tx.initial := tx_eq_initial hdis hunp
  obtain ⟨hhoe, hsde, hrve, -⟩ := hdis
  obtain ⟨-, -, hunit⟩ := hunp
  exact ⟨hsde, hrve, hhoe, htx, hunit, hfifo, hip, hhi (.inl hs), hcnt, hst, hdone⟩

end Sys2Proof.Machine
end

section
/-!
The Memory Array (`20_memory.md` R40, R42, R47, R48, R53): what a store and a host access do to it, and that between
events the receive-side engine has nothing to store, so that only a clock edge completing a data byte of a WRITE
changes the array.
-/
namespace Sys2Proof.Machine

/-! ### Stores -/

/-- A store, inside the array or beyond it, leaves every other offset alone. -/
theorem memRead_storeByte_other {s : State} {a i : Nat} (v : Byte) (h : a ≠ i) :
    memRead s.cfg.preserve (storeByte i v s).mem a = readMem s a := by
  rcases storeByte_spec s i v with ⟨-, heq⟩ | ⟨-, heq⟩ <;> rw [heq]
  · exact memRead_memWrite_other _ _ _ h
  · simp [readMem]

theorem storeByte_mem (i : Nat) (v : Byte) (s : State) :
    (storeByte i v s).mem = if i < s.cfg.memSize then memWrite s.cfg.preserve s.mem i v else s.mem := by
  unfold storeByte
  split <;> simp

/-- A transfer of the receive-side engine stores one byte at its pointer. -/
theorem rveNext_mem (e : RxEntry) (s : State) :
    (rveNext e s).mem = (storeByte s.rve.waddr (dataByte e) s).mem := by
  simp [rveNext, storeByte_mem]

/-! ### Nothing to store -/

/-- The dispatcher is where a queued entry can lead to a start of the receive-side engine without a new event. -/
def MayStartRve (s : State) : Prop :=
  s.disp.state = .idle ∨ s.disp.state = .decode ∨ s.disp.state = .writeArm

/-- The receive-side engine stores nothing before the next event: while it runs no entry is queued or held, and where
it may yet be started there is at most one entry, which the dispatcher takes. -/
def StoreFree (s : State) : Prop :=
  (s.rve.busy = true → s.rx.fifo = [] ∧ s.rx.stalled = false) ∧
    (MayStartRve s → s.rx.fifo.length ≤ 1 ∧ s.rx.stalled = false)

/-- `StoreFree` with room for one more entry: what holds in a quiescent machine. -/
def StoreAwaited (s : State) : Prop :=
  s.rve.busy = true ∨ MayStartRve s → s.rx.fifo = [] ∧ s.rx.stalled = false

theorem StoreFree.congr {s t : State} (h : StoreFree s) (hrx : t.rx = s.rx) (hrve : t.rve = s.rve)
    (hstate : t.disp.state = s.disp.state) : StoreFree t := by
  unfold StoreFree MayStartRve
  rwa [hrx, hrve, hstate]

theorem StoreAwaited.congr {s t : State} (h : StoreAwaited s) (hrx : t.rx = s.rx) (hrve : t.rve = s.rve)
    (hdisp : t.disp = s.disp) : StoreAwaited t := by
  unfold StoreAwaited MayStartRve
  rwa [hrx, hrve, hdisp]

theorem StoreAwaited.storeFree {s : State} (h : StoreAwaited s) : StoreFree s :=
  ⟨fun hbusy => h (.inl hbusy), fun hstart => ⟨by simp [(h (.inr hstart)).1], (h (.inr hstart)).2⟩⟩

/-- Taking the head of the queue leaves no entry where the engine runs or may be started. -/
theorem StoreFree.pop {s : State} (h : StoreFree s) : StoreFree (popRx s) := by
  obtain ⟨hbusy, hstart⟩ := h
  refine ⟨fun hb => ?_, fun hs => ?_⟩
  · obtain ⟨hfifo, hst⟩ := hbusy hb
    exact ⟨by simp [hfifo], hst⟩
  · obtain ⟨hlen, hst⟩ := hstart hs
    exact ⟨by simp; omega, hst⟩

/-- Where the dispatcher is past starting the engine, only a running engine matters. -/
theorem StoreFree.move {s t : State} (h : StoreFree s) (hrx : t.rx = s.rx)
    (hrve : t.rve.busy = true → s.rve.busy = true) (hstate : ¬ MayStartRve t) : StoreFree t :=
  ⟨fun hbusy => hrx ▸ h.1 (hrve hbusy), fun hs => absurd hs hstate⟩

theorem storeFree_endEntry {s t : State} (h : StoreFree s) (ht : endEntry s = some t) : StoreFree t := by
  rcases endEntry_cases ht with ⟨-, rfl⟩ | ⟨-, rfl⟩ | ⟨-, -, rfl⟩ | ⟨-, rfl⟩
  · exact h.move rfl id (by simp [MayStartRve, exitRead])
  · exact h.move rfl id (by simp [MayStartRve, exitFast])
  · exact h.move rfl nofun (by simp [MayStartRve])
  · exact h.move rfl id (by simp [MayStartRve, exitUnknown])

theorem storeFree_dispStep {s t : State} (h : StoreFree s) (ht : dispStep s = some t) : StoreFree t := by
  rcases dispStep_cases ht with ⟨hs, -, rfl⟩ | ⟨e, es, hs, hfifo, rfl⟩ | ⟨-, rfl⟩ | ⟨-, rfl⟩ | ⟨-, -, rfl⟩ |
    ⟨e, es, -, -, -, -, rfl⟩ | ⟨e, es, hs, -, hfifo, rfl⟩ | ⟨-, -, hend⟩ | ⟨-, rfl⟩
  · exact ⟨h.1, fun _ => h.2 (.inl hs)⟩
  · exact ⟨h.pop.1, fun _ => h.pop.2 (.inr (.inl hs))⟩
  · exact h.move rfl id (by simp [MayStartRve, dispReadArm])
  · exact h.move rfl id (by simp [MayStartRve, dispIgnore])
  · exact h.congr rfl rfl rfl
  · exact h.pop.move rfl id (by simp [MayStartRve])
  · obtain ⟨hlen, hst⟩ := h.2 (.inr (.inr hs))
    have hes : es = [] := by simpa [hfifo] using hlen
    exact ⟨fun _ => ⟨by simp [hfifo, hes], by simpa using hst⟩, by simp [MayStartRve]⟩
  · exact storeFree_endEntry h hend
  · simp [StoreFree, Rx.initial]

/-- An internal step of such a machine stores nothing, and leaves it such a machine. -/
theorem storeFree_internal {s t : State} (h : StoreFree s) (ht : internal s = some t) :
    StoreFree t ∧ t.mem = s.mem := by
  obtain ⟨-, hstep | hstep | hstep | hstep | hstep⟩ := internal_cases ht
  · obtain ⟨hst, -, rfl⟩ := rxUnstall_eq_some.1 hstep
    exact ⟨⟨fun hbusy => absurd (h.1 hbusy).2 (by simp [hst]), fun hs => absurd (h.2 hs).2 (by simp [hst])⟩, rfl⟩
  · obtain ⟨e, es, -, -, -, rfl⟩ := hoeStep_eq_some.1 hstep
    exact ⟨h.pop.congr rfl rfl rfl, rfl⟩
  · obtain ⟨-, -, -, rfl⟩ := sdeStep_eq_some.1 hstep
    exact ⟨h.congr (by simp [sdeNext]) (by simp [sdeNext]) (by simp [sdeNext]), by simp [sdeNext]⟩
  · obtain ⟨e, es, hfifo, hbusy, -, rfl⟩ := rveStep_eq_some.1 hstep
    simp [(h.1 hbusy).1] at hfifo
  · exact ⟨storeFree_dispStep h hstep, (dispStep_keeps_mem_faults hstep).1⟩

theorem StoreFree.settle_mem {s : State} (h : StoreFree s) : (settle s).mem = s.mem :=
  (settle_induction (P := fun u => StoreFree u ∧ u.mem = s.mem)
    (fun _ _ ⟨hfree, hmem⟩ ht =>
      ⟨(storeFree_internal hfree ht).1, (storeFree_internal hfree ht).2.trans hmem⟩) ⟨h, rfl⟩).2

/-- With an empty queue a quiescent machine holds no word: a pending push would be enabled (R83). -/
theorem Quiescent.not_stalled {s : State} (hq : Quiescent s) (hrun : s.sys.phase = .running) (hwf : s.cfg.wf)
    (hfifo : s.rx.fifo = []) : s.rx.stalled = false := by
  obtain ⟨hunstall, -⟩ := (quiescent_iff hrun).1 hq
  obtain ⟨hdepth, -⟩ := hwf
  have hroom : rxFull s = false := by simp [rxFull, hfifo]; omega
  simpa [rxUnstall, hroom] using hunstall

/-- In the address wait of a WRITE the deselect is not yet observed, for the exit step would be enabled (R123), and
the queue is empty, for the arm step would be (R117). -/
theorem Quiescent.writeArm_fifo {s : State} (hq : Quiescent s) (hrun : s.sys.phase = .running) (h : RunningInv s)
    (hs : s.disp.state = .writeArm) : s.rx.fifo = [] := by
  obtain ⟨-, -, -, -, hdisp⟩ := (quiescent_iff hrun).1 hq
  obtain ⟨-, -, hrve, -⟩ := h.disengaged (by simp [hs])
  obtain ⟨-, -, -, -, ⟨-, -, -, hwrite, -⟩, ⟨hle, -⟩, -⟩ := h
  have harm : dispWriteArm s = none := by simpa [dispStep, hs] using hdisp
  have hhi : s.disp.hi ≠ 2 := by
    intro hhi
    simp [dispWriteArm, hhi, endEntry, hwrite hs, exitWrite, hrve] at harm
  have hlt : s.disp.hi < 2 := by omega
  cases hfifo : s.rx.fifo with
  | nil => rfl
  | cons e es => simp [dispWriteArm, hhi, hfifo, hlt] at harm

/-- A running receive-side engine, and a dispatcher that may yet start it, take every entry they find queued; so in a
quiescent machine they have left none. -/
theorem Quiescent.storeAwaited {s : State} (hq : Quiescent s) (hrun : s.sys.phase = .running) (hwf : s.cfg.wf)
    (h : RunningInv s) : StoreAwaited s := by
  obtain ⟨-, -, -, hrveStep, hdisp⟩ := (quiescent_iff hrun).1 hq
  have hfifo : s.rve.busy = true ∨ MayStartRve s → s.rx.fifo = [] := by
    rintro (hbusy | hs | hs | hs)
    · obtain ⟨-, -, -, -, -, -, ⟨-, -, hrve⟩, -⟩ := h
      obtain ⟨-, -, hpos⟩ := hrve hbusy
      cases hfifo : s.rx.fifo with
      | nil => rfl
      | cons e es => simp [rveStep, hfifo, hbusy, hpos] at hrveStep
    · exact hq.idle_fifo hrun hs
    · cases hfifo : s.rx.fifo with
      | nil => rfl
      | cons e es => simp [dispStep, hs, dispDecode, hfifo] at hdisp
    · exact hq.writeArm_fifo hrun h hs
  exact fun hany => ⟨hfifo hany, hq.not_stalled hrun hwf (hfifo hany)⟩

/-! ### Clock edges -/

/-- A clock edge of the inbound shifter leaves nothing to store, unless it completes a data byte for a running engine:
then that byte is all there is in the queue. -/
theorem storeFree_rxClock {s : State} (b : Bool) (hwf : s.cfg.wf) (h : StoreAwaited s) :
    StoreFree (rxClock b s) ∨
      s.rve.busy = true ∧ (rxClock b s).rx.stalled = false ∧ ∃ e, (rxClock b s).rx.fifo = [e] := by
  have hroom : s.rve.busy = true ∨ MayStartRve s → rxFull s = false := fun hany => by
    obtain ⟨hdepth, -⟩ := hwf
    simp [rxFull, (h hany).1]; omega
  rcases rxClock_cases s b with ⟨-, heq⟩ | ⟨-, hfull, heq⟩ | ⟨-, -, heq⟩ <;> rw [heq]
  · exact .inl h.storeFree
  · exact .inl ⟨fun hbusy => by simp [hroom (.inl hbusy)] at hfull, fun hs => by simp [hroom (.inr hs)] at hfull⟩
  · by_cases hbusy : s.rve.busy = true
    · exact .inr ⟨hbusy, rfl, by simp [(h (.inl hbusy)).1]⟩
    · exact .inl ⟨fun hb => absurd hb hbusy, fun hs => ⟨by simp [(h (.inr hs)).1], rfl⟩⟩

/-- A running receive-side engine with one entry queued stores it, and that is all the settling machine stores. -/
theorem settle_mem_of_data {s : State} {e : RxEntry} (hrun : s.sys.phase = .running) (h : RunningInv s)
    (hbusy : s.rve.busy = true) (hst : s.rx.stalled = false) (hfifo : s.rx.fifo = [e]) :
    (settle s).mem = (storeByte s.rve.waddr (dataByte e) s).mem := by
  obtain ⟨hone, -, -, -, -, -, ⟨hhoe, -, hrve⟩, -⟩ := h
  obtain ⟨hs, hc, hpos⟩ := hrve hbusy
  have hsde : s.sde.busy = false := Bool.eq_false_iff.2 fun hb => hone ⟨hb, hbusy⟩
  have hhoe' : s.hoe.started = false := Bool.eq_false_iff.2 fun hb => by simpa [hc] using (hhoe hb).2.1
  have hstore : rveStep s = some (rveNext e s) := rveStep_eq_some.2 ⟨e, [], hfifo, hbusy, hpos, rfl⟩
  have hinternal : internal s = some (rveNext e s) := by
    simp [internal, running, hrun, rxUnstall, hst, hoeStep, hfifo, hhoe', sdeStep, hsde, hstore]
  have hfree : StoreFree (rveNext e s) :=
    ⟨fun _ => by simp [rveNext, hfifo, hst], by simp [MayStartRve, rveNext, hs]⟩
  rw [settle_of_internal hinternal, hfree.settle_mem, rveNext_mem]

/-- The rest of a clock edge changes the array only while the receive-side engine runs on a selected bus, and then by
one store at its pointer. -/
theorem clockRest_mem {s : State} (b : Bool) (o : So) (hrun : s.sys.phase = .running) (hinv : Inv s)
    (h : StoreAwaited s) :
    (clockRest b o s).mem = s.mem ∨
      s.csn = false ∧ s.rve.busy = true ∧ ∃ v, (clockRest b o s).mem = (storeByte s.rve.waddr v s).mem := by
  unfold clockRest
  simp only [emit_frame]
  split
  case isFalse => exact .inl h.storeFree.settle_mem
  case isTrue hen =>
    simp only [rxEnabled, Bool.and_eq_true, Bool.not_eq_true'] at hen
    obtain ⟨⟨-, hcsn⟩, hst⟩ := hen
    obtain ⟨hwf, -, -, hrunning⟩ := hinv
    have honly := rxClock_only_rx s b
    rcases storeFree_rxClock b hwf h with hfree | ⟨hbusy, hst', e, hfifo⟩
    · refine .inl (hfree.settle_mem.trans ?_)
      rw [honly]; rfl
    · refine .inr ⟨hcsn, hbusy, dataByte e, ?_⟩
      have hrve : (rxClock b s).rve = s.rve := by rw [honly]; rfl
      have hstore := settle_mem_of_data (by simpa using hrun) (runningInv_rxClock b (hrunning hrun) hst)
        (by rwa [hrve]) hst' hfifo
      have hmem : (rxClock b s).mem = s.mem := by rw [honly]; rfl
      rw [hstore, hrve, storeByte_mem, storeByte_mem, hmem, (rxClock_cfg_sys b s).1]

/-- `TXSM`, which comes first at a clock edge, touches nothing that matters to the store. -/
theorem clock_mem {s t : State} {b : Bool} (hrun : s.sys.phase = .running) (hinv : Inv s) (h : StoreAwaited s)
    (ht : clock b s = .next t) :
    t.mem = s.mem ∨ s.csn = false ∧ s.rve.busy = true ∧ ∃ v, t.mem = (storeByte s.rve.waddr v s).mem := by
  unfold clock at ht
  rw [hrun] at ht
  dsimp only at ht
  split at ht
  case isFalse => cases ht; exact clockRest_mem b .idle hrun hinv h
  case isTrue =>
    split at ht
    case h_2 => cases ht
    case h_1 r hr =>
      cases ht
      have honly := txClock_only_tx hr
      have hsame : r.2.cfg = s.cfg ∧ r.2.sys = s.sys ∧ r.2.csn = s.csn ∧ r.2.rx = s.rx ∧ r.2.rve = s.rve ∧
          r.2.disp = s.disp ∧ r.2.mem = s.mem := by
        rw [honly]; exact ⟨rfl, rfl, rfl, rfl, rfl, rfl, rfl⟩
      obtain ⟨hcfg, hsys, hcsn, hrx, hrve, hdisp, hmem⟩ := hsame
      have hrest := clockRest_mem b r.1 (by rwa [hsys]) (inv_txClock hinv hr) (h.congr hrx hrve hdisp)
      simpa only [storeByte_mem, hcfg, hcsn, hrve, hmem] using hrest

/-! ### Every other event -/

theorem selectFall_mem {s : State} (h : StoreFree s) : (selectFall s).mem = s.mem := by
  have hlow : StoreFree (s.setCsn false) := h.congr rfl rfl rfl
  unfold selectFall
  split
  · simp
  · exact hlow.settle_mem
  · rfl

theorem selectRise_mem {s : State} (h : StoreFree s) : (selectRise s).mem = s.mem := by
  have hhigh : StoreFree (s.setCsn true) := h.congr rfl rfl rfl
  have hshort : StoreFree (raiseFault .shortCommand (s.setCsn true)) :=
    hhigh.congr (by simp) (by simp) (by simp)
  unfold selectRise
  split
  · rfl
  · split
    · simpa using hshort.settle_mem
    · exact hhigh.settle_mem
  · rfl

theorem sample_mem {s : State} (h : StoreFree s) : (sample s).mem = s.mem := by
  unfold sample
  split
  · rcases dispSample_spec s with ⟨-, heq⟩ | ⟨-, heq⟩ <;> rw [heq]
    · exact StoreFree.settle_mem (h.congr rfl rfl rfl)
    · exact h.settle_mem
  · rfl

theorem hostRead_mem (i : Nat) (s : State) : (hostRead i s).mem = s.mem := by
  unfold hostRead hostDraw
  repeat' split
  all_goals simp

/-- Settles O46: from a quiescent machine every event but a clock edge finds nothing to store, and a clock edge stores
at most the data byte it completes, for the receive-side engine, which runs only for a WRITE. -/
theorem onlyWriteDataChangesMemory : Obligations.OnlyWriteDataChangesMemory := by
  intro s t e hinv hrun hq ht hnotWrite hchanged
  obtain ⟨⟨hwf, -, -⟩, himp⟩ := (inv_iff s).1 hinv
  have hrunning : RunningInv s := himp hrun
  have hawaited : StoreAwaited s := hq.storeAwaited hrun hwf hrunning
  have hfree : StoreFree s := hawaited.storeFree
  cases e with
  | setup ok => simp [doEvent, setup, hrun] at ht
  | selectFall => cases ht; exact absurd (selectFall_mem hfree) hchanged
  | selectRise => cases ht; exact absurd (selectRise_mem hfree) hchanged
  | sample => cases ht; exact absurd (sample_mem hfree) hchanged
  | hostRead i => cases ht; exact absurd (hostRead_mem i s) hchanged
  | hostWrite i v => exact absurd rfl (hnotWrite i v)
  | clock b =>
    obtain hmem | ⟨hcsn, hbusy, v, hmem⟩ := clock_mem hrun hinv hawaited ht
    · exact absurd hmem hchanged
    · obtain ⟨-, -, -, -, -, -, ⟨-, -, hrve⟩, -⟩ := hrunning
      obtain ⟨hs, hc, -⟩ := hrve hbusy
      have hothers : ∀ a, a ≠ s.rve.waddr → readMem t a = readMem s a := fun a ha => by
        rw [readMem, hmem, (clock_keeps_cfg_sys ht).1]
        exact memRead_storeByte_other v ha
      exact ⟨⟨b, rfl⟩, hc, hs, hbusy, hcsn, hothers⟩

/-! ### Host accesses in the quiescent window -/

theorem hostWindow_eq_true {s : State} :
    hostWindow s = true ↔ s.sys.phase = .running ∧ s.disp.state = .idle ∧ s.csn = true ∧ s.rx.isr = [] := by
  simp [hostWindow, running, rxCnt, and_assoc]

theorem hostRead_of_lt {s : State} {i : Nat} (hw : hostWindow s = true) (hi : i < s.cfg.memSize) :
    hostRead i s = s.setTrace (s.trace ++ [.host i (readMem s i)]) := by
  simp [hostRead, hw, hi, emit]

/-- Beyond the array the host is returned a draw (R42). -/
theorem hostRead_of_le {s : State} {i : Nat} (hw : hostWindow s = true) (hi : s.cfg.memSize ≤ i) :
    hostRead i s = (s.setTrace (s.trace ++ [.host i (Config.freeByte s.draws)])).setDraws (s.draws + 1) := by
  simp [hostRead, hw, hi.not_gt, hostDraw, emit, drawn]

theorem hostWrite_of_window {s : State} (i : Nat) (v : Byte) (hw : hostWindow s = true) :
    hostWrite i v s = storeByte i v s := if_pos hw

/-- Settles O47: the window leads to a read of the array and to `MemWrite`, and each of them splits at `MEM_SIZE`. -/
theorem hostAccessInWindow : Obligations.HostAccessInWindow := by
  intro s i v hrun hidle hcsn hisr
  have hw : hostWindow s = true := hostWindow_eq_true.2 ⟨hrun, hidle, hcsn, hisr⟩
  unfold doEvent
  dsimp only
  rw [hostWrite_of_window i v hw]
  rcases storeByte_spec s i v with ⟨hin, hstore⟩ | ⟨hout, hstore⟩ <;> rw [hstore]
  · rw [hostRead_of_lt hw hin]
    exact ⟨fun _ => ⟨rfl, _, rfl, memRead_memWrite_same .., fun _ ha => memRead_memWrite_other _ _ _ ha⟩,
      fun hout => absurd hin hout.not_gt⟩
  · rw [hostRead_of_le hw hout]
    exact ⟨fun hin => absurd hin hout.not_gt, fun _ => ⟨rfl, _, _, rfl⟩⟩

end Sys2Proof.Machine
end

section
/-!
Fields on the wire (`30_encoding.md` R64, R65, `20_memory.md` R44): the value of a bit list and the bits of a value
undo each other, and so do the bytes of a data phase and their bits.
-/
namespace Sys2Proof

/-! ### The value of a field -/

@[simp] theorem ofBits_nil : ofBits [] = 0 := rfl

theorem ofBits_snoc (bits : List Bool) (b : Bool) : ofBits (bits ++ [b]) = 2 * ofBits bits + b.toNat := by
  simp [ofBits]

/-- The first bit of a field is its most significant one (R64, R65). -/
theorem ofBits_cons (b : Bool) (bits : List Bool) : ofBits (b :: bits) = b.toNat * 2 ^ bits.length + ofBits bits := by
  induction bits using List.reverseRecOn with
  | nil => simp [ofBits]
  | append_singleton bits c ih =>
    rw [← List.cons_append, ofBits_snoc, ofBits_snoc, ih, List.length_append, List.length_singleton, Nat.pow_succ]
    ring

/-- Settles O6, by induction on the field: its first bit is the first term of the sum. -/
theorem fieldValueIsMsbFirstSum : Obligations.FieldValueIsMsbFirstSum := by
  intro bits
  induction bits with
  | nil => simp
  | cons b bits ih =>
    rw [ofBits_cons, ih, List.length_cons, Finset.sum_range_succ']
    simp [Nat.sub_sub, Nat.add_comm]

/-! ### The bits of a value -/

@[simp] theorem toBits_length (n v : Nat) : (toBits n v).length = n := by
  induction n with
  | zero => rfl
  | succ n ih => simp [toBits, ih]

theorem ofBits_toBits (n v : Nat) : ofBits (toBits n v) = v % 2 ^ n := by
  induction n with
  | zero => simp [toBits, Nat.mod_one]
  | succ n ih =>
    rw [toBits, ofBits_cons, toBits_length, ih, Nat.toNat_testBit, Nat.mod_pow_succ]
    ring

/-- The low bits of a value are those of the field it ends in, whatever stands above the field. -/
theorem toBits_of_low_field (bits : List Bool) (k : Nat) :
    toBits bits.length (k * 2 ^ bits.length + ofBits bits) = bits := by
  induction bits generalizing k with
  | nil => rfl
  | cons b bits ih =>
    have hvalue : k * 2 ^ (bits.length + 1) + ofBits (b :: bits) =
        (2 * k + b.toNat) * 2 ^ bits.length + ofBits bits := by
      rw [ofBits_cons, Nat.pow_succ]; ring
    have hfirst : ((2 * k + b.toNat) * 2 ^ bits.length + ofBits bits).testBit bits.length = b := by
      rw [Nat.testBit_eq_decide_div_mod_eq, Nat.add_comm, Nat.add_mul_div_right _ _ (Nat.two_pow_pos _),
        Nat.div_eq_of_lt (Machine.ofBits_lt bits)]
      cases b <;> simp
    rw [List.length_cons, hvalue, toBits, hfirst, ih]

theorem toBits_ofBits (bits : List Bool) : toBits bits.length (ofBits bits) = bits := by
  simpa using toBits_of_low_field bits 0

/-! ### Bytes -/

theorem ofBits_byteBits (b : Byte) : ofBits (byteBits b) = b.toNat := by
  rw [byteBits, ofBits_toBits, Nat.mod_eq_of_lt b.isLt]

theorem byteBits_ofBits {bits : List Bool} (h : bits.length = 8) : byteBits (BitVec.ofNat 8 (ofBits bits)) = bits := by
  have hlt : ofBits bits < 2 ^ 8 := h ▸ Machine.ofBits_lt bits
  rw [byteBits, BitVec.toNat_ofNat, Nat.mod_eq_of_lt hlt, ← h, toBits_ofBits]

theorem bytesBits_cons (b : Byte) (bs : List Byte) : bytesBits (b :: bs) = byteBits b ++ bytesBits bs := rfl

/-- A bit list that is long enough starts with a byte. -/
theorem exists_byteBits_append {bits : List Bool} (h : 8 ≤ bits.length) : ∃ b rest, bits = byteBits b ++ rest :=
  ⟨BitVec.ofNat 8 (ofBits (bits.take 8)), bits.drop 8, by
    rw [byteBits_ofBits (by simpa using h), List.take_append_drop]⟩

/-! ### Data phases -/

/-- Fewer than 8 bits hold no complete byte (R70). -/
theorem splitBytes_of_short {bits : List Bool} (h : bits.length < 8) : splitBytes bits = ([], bits) := by
  unfold splitBytes
  split
  · simp at h; omega
  · rfl

/-- The first complete byte is read off the front (R65). -/
theorem splitBytes_byteBits_append (b : Byte) (rest : List Bool) :
    splitBytes (byteBits b ++ rest) = (b :: (splitBytes rest).1, (splitBytes rest).2) := by
  have hstep : splitBytes (byteBits b ++ rest) =
      (BitVec.ofNat 8 (ofBits (byteBits b)) :: (splitBytes rest).1, (splitBytes rest).2) := rfl
  rw [hstep, ofBits_byteBits, BitVec.ofNat_toNat, BitVec.setWidth_eq]

/-- Settles O7, by induction on the data bytes. -/
theorem dataBytesReadBackFromWire : Obligations.DataBytesReadBackFromWire := by
  intro data trail htrail
  induction data with
  | nil => exact splitBytes_of_short htrail
  | cons b data ih => rw [bytesBits_cons, List.append_assoc, splitBytes_byteBits_append, ih]

/-- No bit of a data phase is lost, and fewer than 8 bits trail its bytes (R65, R70). -/
theorem splitBytes_spec (bits : List Bool) :
    bytesBits (splitBytes bits).1 ++ (splitBytes bits).2 = bits ∧ (splitBytes bits).2.length < 8 := by
  rcases Nat.lt_or_ge bits.length 8 with hshort | hlong
  · rw [splitBytes_of_short hshort]
    exact ⟨rfl, hshort⟩
  · obtain ⟨b, rest, rfl⟩ := exists_byteBits_append hlong
    obtain ⟨hbits, htrail⟩ := splitBytes_spec rest
    rw [splitBytes_byteBits_append, bytesBits_cons, List.append_assoc, hbits]
    exact ⟨rfl, htrail⟩
termination_by bits.length
decreasing_by simp [*, Laws.FrameStartsWithCommand.byteBits_length]

end Sys2Proof
end

section
/-!
The decoder and the encoder (`30_encoding.md` R60 to R70): a frame with a complete command byte is an instruction, and
encoding undoes decoding and the other way round.
-/
namespace Sys2Proof

/-! ### The command byte -/

/-- The scaling by `CMD_SHIFT` (R68, D5) does not change which opcode a command word equals. -/
theorem classify_eq (w : AddrBits) (c : Nat) :
    classify w c =
      if c = 0x03 then .read else if c = 0x0B then .fastRead else if c = 0x02 then .write else .unknown := by
  have hscale : ∀ op, c <<< w.cmdShift = op <<< w.cmdShift ↔ c = op := fun op => by
    rw [Nat.shiftLeft_eq, Nat.shiftLeft_eq, Nat.mul_left_inj (Nat.two_pow_pos _).ne']
  simp only [classify, hscale]

/-- The class of a command byte, byte against byte (R66, R113). -/
theorem classify_byte (w : AddrBits) (b : Byte) :
    classify w b.toNat =
      if b = 0x03 then .read else if b = 0x0B then .fastRead else if b = 0x02 then .write else .unknown := by
  simp [classify_eq, ← BitVec.toNat_inj]

theorem unknownCmdOk_iff (b : Byte) : unknownCmdOk b = true ↔ b ≠ 0x03 ∧ b ≠ 0x0B ∧ b ≠ 0x02 := by
  simp [unknownCmdOk, and_assoc]

/-! ### The fields after the command byte -/

theorem decodeReadArgs_encodeReadArgs {w : AddrBits} {a : ReadArgs} (h : a.wf w = true) :
    decodeReadArgs w (encodeReadArgs w a) = a := by
  cases a with
  | cut got => exact if_pos (of_decide_eq_true h)
  | full addr clocks =>
    have haddr : addr < 2 ^ w.bits := of_decide_eq_true h
    simp [decodeReadArgs, encodeReadArgs, ofBits_toBits, Nat.mod_eq_of_lt haddr]

theorem decodeWriteArgs_encodeWriteArgs {w : AddrBits} {a : WriteArgs} (h : a.wf w = true) :
    decodeWriteArgs w (encodeWriteArgs w a) = a := by
  cases a with
  | cut got => exact if_pos (of_decide_eq_true h)
  | full addr data trail =>
    obtain ⟨haddr, htrail⟩ : addr < 2 ^ w.bits ∧ trail.length < 8 := by simpa [WriteArgs.wf, addrOk] using h
    simp [decodeWriteArgs, encodeWriteArgs, ofBits_toBits, Nat.mod_eq_of_lt haddr,
      dataBytesReadBackFromWire data trail htrail]

/-- The address field of a body that is long enough: its bits and its range (R64). -/
theorem addressField_reads_back {w : AddrBits} {body : List Bool} (h : w.bits ≤ body.length) :
    toBits w.bits (ofBits (body.take w.bits)) = body.take w.bits ∧ ofBits (body.take w.bits) < 2 ^ w.bits := by
  have hlen : (body.take w.bits).length = w.bits := List.length_take_of_le h
  have hbits := toBits_ofBits (body.take w.bits)
  have hlt := Machine.ofBits_lt (body.take w.bits)
  rw [hlen] at hbits hlt
  exact ⟨hbits, hlt⟩

theorem encodeReadArgs_decodeReadArgs (w : AddrBits) (body : List Bool) :
    encodeReadArgs w (decodeReadArgs w body) = body ∧ (decodeReadArgs w body).wf w = true := by
  unfold decodeReadArgs
  split
  · exact ⟨rfl, decide_eq_true ‹_›⟩
  · obtain ⟨hbits, hlt⟩ := addressField_reads_back (not_lt.1 ‹_›)
    exact ⟨by rw [encodeReadArgs, hbits, List.take_append_drop], decide_eq_true hlt⟩

theorem encodeWriteArgs_decodeWriteArgs (w : AddrBits) (body : List Bool) :
    encodeWriteArgs w (decodeWriteArgs w body) = body ∧ (decodeWriteArgs w body).wf w = true := by
  unfold decodeWriteArgs
  split
  · exact ⟨rfl, decide_eq_true ‹_›⟩
  · obtain ⟨hbits, hlt⟩ := addressField_reads_back (not_lt.1 ‹_›)
    obtain ⟨hdata, htrail⟩ := splitBytes_spec (body.drop w.bits)
    exact ⟨by rw [encodeWriteArgs, hbits, List.append_assoc, hdata, List.take_append_drop],
      by simp [WriteArgs.wf, addrOk, hlt, htrail]⟩

/-! ### Frames by their length -/

/-- The instruction a frame is, by its command byte and the bits after it (R66). -/
def instrOf (w : AddrBits) (b : Byte) (body : List Bool) : Instr :=
  if b = 0x03 then .read (decodeReadArgs w body)
  else if b = 0x0B then .fastRead (decodeReadArgs w body)
  else if b = 0x02 then .write (decodeWriteArgs w body)
  else .unknown b body

@[simp] theorem decode_nil (w : AddrBits) : decode w [] = .error .emptyFrame := rfl

theorem decode_of_short {w : AddrBits} {bits : List Bool} (hpos : 1 ≤ bits.length) (hshort : bits.length < 8) :
    decode w bits = .error .shortCommand := by
  rw [decode, if_neg (by omega), if_pos hshort]

/-- A complete command byte is always an instruction: none is illegal (R67). -/
theorem decode_byteBits_append (w : AddrBits) (b : Byte) (body : List Bool) :
    decode w (byteBits b ++ body) = .ok (instrOf w b body) := by
  have hlen : 8 ≤ (byteBits b ++ body).length := by simp [Laws.FrameStartsWithCommand.byteBits_length]
  have hfirst : (byteBits b ++ body).take 8 = byteBits b := rfl
  have hlater : (byteBits b ++ body).drop 8 = body := rfl
  rw [decode, if_neg (by omega), if_neg (by omega), hfirst, hlater, ofBits_byteBits, BitVec.ofNat_toNat,
    BitVec.setWidth_eq, classify_byte, instrOf]
  split_ifs <;> rfl

/-- Settles O5: the three lengths of a frame, and what the decoder answers for each. -/
theorem onlyShortFramesAreRejected : Obligations.OnlyShortFramesAreRejected := by
  intro w bits
  rcases Nat.lt_or_ge bits.length 8 with hshort | hlong
  · rcases Nat.eq_zero_or_pos bits.length with hzero | hpos
    · rw [List.length_eq_zero_iff.1 hzero]
      simp
    · rw [decode_of_short hpos hshort]
      simp only [reduceCtorEq, Except.error.injEq, exists_false, false_iff, true_iff]
      omega
  · obtain ⟨b, body, rfl⟩ := exists_byteBits_append hlong
    rw [decode_byteBits_append]
    simp only [reduceCtorEq, Except.ok.injEq, exists_eq', false_iff, true_iff]
    omega

/-! ### Round trips -/

/-- The command byte and the later bits of an instruction give it back. -/
theorem instrOf_cmdByte_body {w : AddrBits} {i : Instr} (h : i.wf w = true) : instrOf w i.cmdByte (i.body w) = i := by
  cases i with
  | read args => exact congrArg Instr.read (decodeReadArgs_encodeReadArgs h)
  | fastRead args => exact congrArg Instr.fastRead (decodeReadArgs_encodeReadArgs h)
  | write args => exact congrArg Instr.write (decodeWriteArgs_encodeWriteArgs h)
  | unknown cmd rest =>
    obtain ⟨hread, hfast, hwrite⟩ := (unknownCmdOk_iff cmd).1 h
    exact (if_neg hread).trans ((if_neg hfast).trans (if_neg hwrite))

/-- An instruction read from a frame has that frame, and is well formed. -/
theorem encode_instrOf (w : AddrBits) (b : Byte) (body : List Bool) :
    encode w (instrOf w b body) = byteBits b ++ body ∧ (instrOf w b body).wf w = true := by
  obtain ⟨hread, hreadWf⟩ := encodeReadArgs_decodeReadArgs w body
  obtain ⟨hwrite, hwriteWf⟩ := encodeWriteArgs_decodeWriteArgs w body
  unfold instrOf
  split_ifs with h1 h2 h3
  · rw [h1]; exact ⟨congrArg (byteBits 0x03 ++ ·) hread, hreadWf⟩
  · rw [h2]; exact ⟨congrArg (byteBits 0x0B ++ ·) hread, hreadWf⟩
  · rw [h3]; exact ⟨congrArg (byteBits 0x02 ++ ·) hwrite, hwriteWf⟩
  · exact ⟨rfl, (unknownCmdOk_iff b).2 ⟨h1, h2, h3⟩⟩

/-- Settles O1: a frame is the command byte and the fields after it, and each field is read back. -/
theorem decodeEncodeRoundTrip : Obligations.DecodeEncodeRoundTrip := by
  intro w i hwf
  rw [encode, decode_byteBits_append, instrOf_cmdByte_body hwf]

/-- Settles O2: only a frame with a complete command byte decodes, and encoding the instruction gives it back. -/
theorem decodedFrameReencodes : Obligations.DecodedFrameReencodes := by
  intro w bits i hdecode
  obtain ⟨-, -, hlong⟩ := onlyShortFramesAreRejected w bits
  obtain ⟨b, body, rfl⟩ := exists_byteBits_append (hlong.1 ⟨i, hdecode⟩)
  rw [decode_byteBits_append, Except.ok.injEq] at hdecode
  rw [← hdecode]
  exact encode_instrOf w b body

/-- Settles O3: each of the five frames is short enough to evaluate. -/
theorem specFramesDecode : Obligations.SpecFramesDecode := by
  refine ⟨?_, ?_, ?_, ?_, ?_⟩ <;> decide

end Sys2Proof
end

section
/-!
The step on a pending frame, and the frame of no bit (`30_encoding.md` R60, R69, R70, `44_commands.md` R137).
-/
namespace Sys2Proof.Machine

/-! ### A pending frame -/

/-- A step clocks the frame's own bits, also where it runs the instruction the frame decodes to. -/
theorem clockedBits_eq (w : AddrBits) (bits : List Bool) : clockedBits w bits = bits := by
  unfold clockedBits
  split
  · next i hdecode => exact (decodedFrameReencodes w bits i hdecode).1
  · rfl

/-- Settles O9: a step on a frame is the transaction on its own bits, which is the run of its events. -/
theorem frameStepIsItsEvents : Obligations.FrameStepIsItsEvents := by
  intro s bits rest hinbox
  rw [step_of_inbox_frame hinbox, clockedBits_eq, transact, frameEvents, deselect]

/-- Settles O8: the step takes the arm of a frame that decodes. -/
theorem stepRunsDecodedInstruction : Obligations.StepRunsDecodedInstruction := by
  intro s bits rest i hinbox hdecode
  simp [step, hinbox, hdecode]

/-! ### The frame of no bit -/

/-- Quiescence does not depend on the select level. -/
theorem quiescent_setCsn {s : State} (v : Bool) (h : Quiescent s) : Quiescent (s.setCsn v) :=
  (quiescent_congr (s := s) (t := s.setCsn v) rfl rfl rfl rfl rfl rfl rfl rfl rfl rfl rfl).2 h

theorem selectFall_of_quiescent {s : State} (hrun : s.sys.phase = .running) (hq : Quiescent s) :
    selectFall s = s.setCsn false := by
  rw [selectFall, hrun]
  exact settle_of_quiescent (quiescent_setCsn false hq)

/-- With no bit of a command byte collected, the rising select only moves the select line. -/
theorem selectRise_of_quiescent {s : State} (hrun : s.sys.phase = .running) (hq : Quiescent s)
    (hisr : s.rx.isr = []) : selectRise s = s.setCsn true := by
  have hshort : leavesShortCommand s = false := by simp [leavesShortCommand, rxCnt, hisr]
  rw [selectRise, hrun, hshort]
  exact settle_of_quiescent (quiescent_setCsn true hq)

/-- In `IDLE` the dispatcher takes no sample (R118). -/
theorem sample_of_idle {s : State} (hidle : s.disp.state = .idle) (hq : Quiescent s) : sample s = s := by
  have hdisabled : sampleEnabled s = false := by simp [sampleEnabled, hidle]
  simp [sample, dispSample, hdisabled, settle_of_quiescent hq]

/-- Settles O21: in the clean state the select falls and rises again, and neither sample is taken. -/
theorem emptyFrameChangesNothing : Obligations.EmptyFrameChangesNothing := by
  intro s hclean
  have hq := quiescent_of_clean hclean
  obtain ⟨hrun, hcsn, hrx, -, -, -, -, -, hdisp⟩ := hclean
  have hisr : s.rx.isr = [] := by rw [hrx]; rfl
  have hidle : s.disp.state = .idle := by rw [hdisp]; rfl
  have hrise : selectRise (s.setCsn false) = s := by
    rw [selectRise_of_quiescent (s := s.setCsn false) hrun (quiescent_setCsn false hq) hisr, State.setCsn_setCsn,
      ← hcsn, State.setCsn_self]
  simp [transact_eq, deselect, doEvent, andThen, selectFall_of_quiescent hrun hq, hrise, sample_of_idle hidle hq]

end Sys2Proof.Machine
end

section
/-!
The read pipeline (`40_read_pipeline.md` R81 to R83): a word is collected bit by bit, pushed when it is complete, and
held while the receive queue is full.
-/
namespace Sys2Proof.Machine

variable {s : State}

/-! ### One `Clock` step, by what it finds -/

theorem rxClock_of_more (b : Bool) (hmore : rxCnt s + 1 < rxTarget s.cfg.addrBits s.rx.ip) :
    rxClock b s = rxShiftIn b s := by
  rcases rxClock_cases s b with ⟨-, h⟩ | ⟨hword, -⟩ | ⟨hword, -⟩
  · exact h
  · omega
  · omega

theorem rxClock_of_word_room (b : Bool) (hword : rxCnt s + 1 = rxTarget s.cfg.addrBits s.rx.ip)
    (hroom : rxFull s = false) : rxClock b s = rxPush (rxShiftIn b s) := by
  rcases rxClock_cases s b with ⟨hmore, -⟩ | ⟨-, hfull, -⟩ | ⟨-, -, h⟩
  · exact absurd hword hmore
  · simp [hroom] at hfull
  · exact h

theorem rxClock_of_word_full (b : Bool) (hword : rxCnt s + 1 = rxTarget s.cfg.addrBits s.rx.ip)
    (hfull : rxFull s = true) : rxClock b s = rxHold b s := by
  rcases rxClock_cases s b with ⟨hmore, -⟩ | ⟨-, -, h⟩ | ⟨-, hroom, -⟩
  · exact absurd hword hmore
  · exact h
  · simp [hfull] at hroom

/-! ### The bits of a word -/

/-- No word is empty (R31). -/
theorem rxTarget_pos (w : AddrBits) (ip : RxIp) : 0 < rxTarget w ip := by
  cases ip <;> cases w <;> decide

/-- Bits that complete no word are appended to the shift register and nothing else happens. -/
theorem rxClocks_of_more (bits : List Bool) (hmore : rxCnt s + bits.length < rxTarget s.cfg.addrBits s.rx.ip) :
    bits.foldl (fun t b => rxClock b t) s = s.setRx { s.rx with isr := s.rx.isr ++ bits } := by
  induction bits using List.reverseRecOn with
  | nil => rw [List.append_nil]; rfl
  | append_singleton bits b ih =>
    rw [List.length_append, List.length_singleton] at hmore
    rw [List.foldl_concat, ih (by omega), rxClock_of_more b (by simpa [rxCnt, Nat.add_assoc] using hmore)]
    simp [rxShiftIn]

/-- Settles O29: all bits but the last are collected, and the last one completes the word, which is pushed. -/
theorem inboundShifterPushesWord : Obligations.InboundShifterPushesWord := by
  intro s bits hisr hroom hlen
  cases bits using List.reverseRecOn with
  | nil => exact absurd hlen (rxTarget_pos _ _).ne
  | append_singleton bits b =>
    rw [List.length_append, List.length_singleton] at hlen
    have hcollect : bits.foldl (fun t b => rxClock b t) s = s.setRx { s.rx with isr := bits } := by
      have hcnt : rxCnt s = 0 := by simp [rxCnt, hisr]
      simpa [hisr] using rxClocks_of_more (s := s) bits (by omega)
    rw [List.foldl_concat, hcollect, rxClock_of_word_room (s := s.setRx { s.rx with isr := bits }) b hlen hroom]
    rfl

/-! ### A held word -/

@[simp] theorem rxHold_rx (b : Bool) (s : State) :
    (rxHold b s).rx = { s.rx with isr := s.rx.isr ++ [b], stalled := true } := rfl

/-- A held word is not pushed while the queue is full. -/
theorem rxUnstall_of_full (hfull : rxFull s = true) : rxUnstall s = none := by simp [rxUnstall, hfull]

/-- Taking the head of a queue that is not overfull makes room. -/
theorem rxFull_popRx (hlen : s.rx.fifo.length = s.cfg.rxDepth) (hdepth : 1 ≤ s.cfg.rxDepth) :
    rxFull (popRx s) = false := by
  have htail : s.rx.fifo.tail.length < s.cfg.rxDepth := by rw [List.length_tail, hlen]; omega
  simpa [rxFull] using htail

/-- Settles O30: the word is held, and once the head is taken the held word is pushed. -/
theorem fullQueueStallsInboundShifter : Obligations.FullQueueStallsInboundShifter := by
  intro s b hfull hword
  rw [rxClock_of_word_full b hword hfull]
  refine ⟨rfl, rfl, rfl, by simp [rxEnabled], rxUnstall_of_full hfull, fun hlen hdepth => ?_⟩
  have hpush : rxUnstall (popRx (rxHold b s)) = some (rxPush (popRx (rxHold b s))) :=
    rxUnstall_eq_some.2 ⟨rfl, rxFull_popRx hlen hdepth, rfl⟩
  exact ⟨_, hpush, by simp [completedWord], rfl, rfl⟩

end Sys2Proof.Machine
end

section
/-!
The outbound shifter at a clock edge (`41_write_pipeline.md` R91, R92): what `TXSM` does by what it finds, that with
the invariant every pull finds a unit of its size, and how units leave over many edges.
-/
namespace Sys2Proof.Machine

variable {s : State}

/-! ### One clock edge, by what it finds -/

/-- A unit of the size of `tx.pull` is pulled (R92). -/
theorem txPull_of_sized {e : List Byte} {es : List (List Byte)} (hfifo : s.tx.fifo = e :: es)
    (hsize : 8 * e.length = s.tx.pull.bits) :
    txPull e s = .ok (s.setTx { s.tx with fifo := es, osr := unitBits e }) :=
  txPull_eq_ok.2 ⟨hsize, by rw [hfifo, List.tail_cons]⟩

theorem txFirst_of_empty (hfifo : s.tx.fifo = []) : txFirst s = .ok (.idle, s) := by
  simp [txFirst, hfifo]

/-- In the normal configuration the first unit is shifted from the edge that finds it. -/
theorem txFirst_of_normal {e : List Byte} {es : List (List Byte)} (hjump : s.tx.jump = .normal)
    (hfifo : s.tx.fifo = e :: es) (hsize : 8 * e.length = s.tx.pull.bits) :
    txFirst s = .ok (txShiftOut (s.setTx { s.tx with ip := .shift, fifo := es, osr := unitBits e })) := by
  simp [txFirst, hfifo, txPull_of_sized hfifo hsize, hjump, txEnterShift]

/-- In the fast configuration the edge that finds the first unit is the first of eight dummy edges. -/
theorem txFirst_of_fast {e : List Byte} {es : List (List Byte)} (hjump : s.tx.jump = .fast)
    (hfifo : s.tx.fifo = e :: es) (hsize : 8 * e.length = s.tx.pull.bits) :
    txFirst s = .ok (txDummy (s.setTx { s.tx with ip := .dummy, dly := 8, fifo := es, osr := unitBits e })) := by
  simp [txFirst, hfifo, txPull_of_sized hfifo hsize, hjump, txEnterDummy]

theorem txNext_of_bits {b : Bool} {bits : List Bool} (hosr : s.tx.osr = b :: bits) :
    txNext s = .ok (.bit b, s.setTx { s.tx with osr := bits }) := by
  simp [txNext, txShiftOut, hosr]

theorem txNext_of_dry (hosr : s.tx.osr = []) (hfifo : s.tx.fifo = []) : txNext s = .ok (.idle, s) := by
  simp [txNext, hosr, hfifo]

theorem txNext_of_pull {e : List Byte} {es : List (List Byte)} (hosr : s.tx.osr = [])
    (hfifo : s.tx.fifo = e :: es) (hsize : 8 * e.length = s.tx.pull.bits) :
    txNext s = .ok (txShiftOut (s.setTx { s.tx with fifo := es, osr := unitBits e })) := by
  simp [txNext, hosr, hfifo, txPull_of_sized hfifo hsize]

/-! ### No pull of the wrong size -/

/-- Where every queued unit has the bits of one pull, a clock edge is answered. -/
theorem txClock_answers (hsized : ∀ e ∈ s.tx.fifo, 8 * e.length = s.tx.pull.bits) : ∃ r, txClock s = .ok r := by
  unfold txClock
  cases s.tx.ip with
  | entry =>
    cases hfifo : s.tx.fifo with
    | nil => exact ⟨_, txFirst_of_empty hfifo⟩
    | cons e es =>
      have hsize := hsized e (by simp [hfifo])
      cases hjump : s.tx.jump with
      | normal => exact ⟨_, txFirst_of_normal hjump hfifo hsize⟩
      | fast => exact ⟨_, txFirst_of_fast hjump hfifo hsize⟩
  | dummy => exact ⟨_, rfl⟩
  | shift =>
    cases hosr : s.tx.osr with
    | cons b bits => exact ⟨_, txNext_of_bits hosr⟩
    | nil =>
      cases hfifo : s.tx.fifo with
      | nil => exact ⟨_, txNext_of_dry hosr hfifo⟩
      | cons e es => exact ⟨_, txNext_of_pull hosr hfifo (hsized e (by simp [hfifo]))⟩

theorem clock_ne_fault {b : Bool} {r : Fault} (h : Inv s) : clock b s ≠ .fault r := by
  obtain ⟨-, -, -, hrunning⟩ := h
  unfold clock
  cases hrun : s.sys.phase with
  | preSetup => nofun
  | halted => nofun
  | running =>
    obtain ⟨-, -, -, ⟨hsized, -⟩, -⟩ := hrunning hrun
    obtain ⟨answer, hanswer⟩ := txClock_answers hsized
    dsimp only
    rw [hanswer]
    split <;> nofun

theorem setup_ne_fault {ok : Bool} {r : Fault} : setup ok s ≠ .fault r := by
  unfold setup
  split <;> nofun

/-- Only a clock edge could meet a fault: the other events are answered or, for a second setup, refused. -/
theorem doEvent_ne_fault {e : Event} {r : Fault} (h : Inv s) : doEvent e s ≠ .fault r := by
  cases e with
  | clock b => exact clock_ne_fault h
  | setup ok => exact setup_ne_fault
  | selectFall => nofun
  | selectRise => nofun
  | sample => nofun
  | hostRead i => nofun
  | hostWrite i v => nofun

/-- The invariant is there again before every event of a sequence. -/
theorem doEvents_ne_fault {es : List Event} {r : Fault} (h : Inv s) : doEvents es s ≠ .fault r := by
  induction es generalizing s with
  | nil => nofun
  | cons e es ih =>
    rw [doEvents_cons]
    cases hevent : doEvent e s with
    | next t => exact ih (inv_doEvent h hevent)
    | fault f => exact absurd hevent (doEvent_ne_fault h)
    | refused f => nofun

/-- Settles O56: the events of a step keep the invariant, under which every queued unit has the size of its pull. -/
theorem invariantNeverFaults : Obligations.InvariantNeverFaults := by
  intro s r h
  cases hin : s.inbox with
  | nil => rw [step_of_inbox_nil hin]; nofun
  | cons input rest =>
    have hrest : Inv (s.setInbox rest) := inv_setInbox rest h
    cases input with
    | event e => rw [step_of_inbox_event hin]; exact doEvent_ne_fault hrest
    | frame bits => rw [step_of_inbox_frame hin]; exact doEvents_ne_fault hrest

/-! ### Many clock edges -/

theorem txClocks_succ_eq_ok {n : Nat} {u : State} {os : List So} :
    txClocks (n + 1) s = .ok (os, u) ↔
      ∃ o t ps, txClock s = .ok (o, t) ∧ txClocks n t = .ok (ps, u) ∧ os = o :: ps := by
  rw [txClocks]
  cases txClock s with
  | error f => simp
  | ok r =>
    obtain ⟨o, t⟩ := r
    dsimp only
    cases hrest : txClocks n t with
    | error f => simp [hrest]
    | ok q =>
      obtain ⟨ps, v⟩ := q
      simp [hrest, and_comm, eq_comm]

/-- Only the first edge sees the state the edges start from. -/
theorem txClocks_succ_congr {t : State} (n : Nat) (h : txClock s = txClock t) :
    txClocks (n + 1) s = txClocks (n + 1) t := by
  rw [txClocks, txClocks, h]

/-- A run of edges followed by another. -/
theorem txClocks_append {m n : Nat} {t u : State} {os ps : List So} (hfirst : txClocks m s = .ok (os, t))
    (hrest : txClocks n t = .ok (ps, u)) : txClocks (m + n) s = .ok (os ++ ps, u) := by
  induction m generalizing s os with
  | zero => cases hfirst; rwa [Nat.zero_add]
  | succ m ih =>
    obtain ⟨o, v, qs, hclock, hmore, rfl⟩ := txClocks_succ_eq_ok.1 hfirst
    rw [Nat.add_right_comm]
    exact txClocks_succ_eq_ok.2 ⟨o, v, qs ++ ps, hclock, ih hmore, rfl⟩

/-- In `TX_SHIFT` the shift register leaves bit by bit, first bit first. -/
theorem txClocks_of_shift {n : Nat} {bits : List Bool} (hip : s.tx.ip = .shift) (hosr : s.tx.osr = bits)
    (hlen : bits.length = n) : txClocks n s = .ok (bits.map .bit, s.setTx { s.tx with osr := [] }) := by
  subst hlen
  induction bits generalizing s with
  | nil =>
    have hself : s.setTx { s.tx with osr := [] } = s := congrArg s.setTx (by rw [← hosr])
    rw [hself]; rfl
  | cons b bits ih =>
    have hclock : txClock s = .ok (.bit b, s.setTx { s.tx with osr := bits }) := by
      rw [txClock, hip]; exact txNext_of_bits hosr
    exact txClocks_succ_eq_ok.2 ⟨_, _, _, hclock, ih hip rfl, rfl⟩

/-- In `TX_DUMMY` every edge returns the next draw, and the last of them enters `TX_SHIFT`. -/
theorem txClocks_of_dummy {n : Nat} (hip : s.tx.ip = .dummy) (hdly : s.tx.dly = n + 1) :
    txClocks (n + 1) s = .ok ((List.range' s.draws (n + 1)).map Config.freeSo,
      (s.setTx { s.tx with ip := .shift, dly := 0 }).setDraws (s.draws + (n + 1))) := by
  have hclock : txClock s = .ok (txDummy s) := by rw [txClock, hip]
  induction n generalizing s with
  | zero =>
    have hlast : txDummy s = (Config.freeSo s.draws, drawn (s.setTx { s.tx with ip := .shift, dly := 0 })) := by
      simp [txDummy, hdly]
    exact txClocks_succ_eq_ok.2 ⟨_, _, [], hclock.trans (congrArg _ hlast), rfl, rfl⟩
  | succ n ih =>
    have hmore : txDummy s = (Config.freeSo s.draws, drawn (s.setTx { s.tx with dly := n + 1 })) := by
      simp [txDummy, hdly, ← hip]
    have hrest := ih (s := drawn (s.setTx { s.tx with dly := n + 1 })) hip rfl (by rw [txClock]; simp [hip])
    rw [drawn_draws, State.setTx_draws, Nat.add_assoc, Nat.add_comm 1] at hrest
    exact txClocks_succ_eq_ok.2 ⟨_, _, _, hclock.trans (congrArg _ hmore), hrest, rfl⟩

/-! ### The first unit -/

/-- Waiting for a unit, the normal slot: the edge that finds the unit is the first of its shift (R91). -/
theorem txClock_entry_normal {e : List Byte} {es : List (List Byte)} (hip : s.tx.ip = .entry)
    (hjump : s.tx.jump = .normal) (hfifo : s.tx.fifo = e :: es) (hsize : 8 * e.length = s.tx.pull.bits) :
    txClock s = txClock (s.setTx { s.tx with ip := .shift, fifo := es, osr := unitBits e }) := by
  have hbits : ∃ b bits, unitBits e = b :: bits := by
    refine List.exists_cons_of_length_pos ?_
    rw [unitBits, bytesBits_length, hsize]
    cases s.tx.pull <;> decide
  obtain ⟨b, bits, hbits⟩ := hbits
  rw [txClock, hip]
  dsimp only
  rw [txFirst_of_normal hjump hfifo hsize, hbits]
  rfl

/-- Waiting for a unit, the fast slot: the edge that finds the unit is the first of the dummy byte (R91). -/
theorem txClock_entry_fast {e : List Byte} {es : List (List Byte)} (hip : s.tx.ip = .entry)
    (hjump : s.tx.jump = .fast) (hfifo : s.tx.fifo = e :: es) (hsize : 8 * e.length = s.tx.pull.bits) :
    txClock s = txClock (s.setTx { s.tx with ip := .dummy, dly := 8, fifo := es, osr := unitBits e }) := by
  rw [txClock, hip]
  exact txFirst_of_fast hjump hfifo hsize

/-- Settles O31: the first edge pulls the unit, and all 32 shift it out. -/
theorem normalUnitLeavesMsbFirst : Obligations.NormalUnitLeavesMsbFirst := by
  intro s e es hip hjump hpull hfifo hlen
  have hsize : 8 * e.length = s.tx.pull.bits := by rw [hpull, hlen]; rfl
  have hbits : (unitBits e).length = 32 := by rw [unitBits, bytesBits_length, hlen]
  rw [txClocks_succ_congr 31 (txClock_entry_normal hip hjump hfifo hsize)]
  exact txClocks_of_shift rfl rfl hbits

/-- Settles O32: the first edge pulls the unit, eight edges return draws, and eight shift the byte out. -/
theorem fastUnitLeavesAfterDummyByte : Obligations.FastUnitLeavesAfterDummyByte := by
  intro s b es hip hjump hpull hfifo
  have hsize : 8 * [b].length = s.tx.pull.bits := by rw [hpull]; rfl
  refine ⟨(List.range' s.draws 8).map Config.freeSo, by simp, ?_⟩
  rw [txClocks_succ_congr 15 (txClock_entry_fast hip hjump hfifo hsize)]
  exact txClocks_append (m := 8) (n := 8) (txClocks_of_dummy rfl rfl) (txClocks_of_shift rfl rfl rfl)

end Sys2Proof.Machine
end

section
/-!
The send-side engine (`41_write_pipeline.md` R93, R94): one transfer, and when none is taken.
-/
namespace Sys2Proof.Machine

variable {s : State}

theorem sdeStep_eq_none : sdeStep s = none ↔ s.sde.busy = false ∨ s.sde.count = 0 ∨ txFull s = true := by
  unfold sdeStep
  cases s.sde.busy <;> cases txFull s <;> simp

/-- Settles O33: the transfer queues the bytes `MemRead` gives, and uses up its draws. -/
theorem sendEngineQueuesUnit : Obligations.SendEngineQueuesUnit := by
  refine fun s => ⟨fun hbusy hcount hroom => ?_, sdeStep_eq_none⟩
  refine ⟨(loadBytes s.sde.unit.bytes s.sde.raddr s).1, loadBytes_length s _ _,
    fun i hi hin => loadBytes_getElem s _ _ i hi hin, sdeStep_eq_some.2 ⟨hbusy, hcount, hroom, ?_⟩⟩
  rw [sdeNext, loadBytes_state]
  rfl

end Sys2Proof.Machine
end

section
/-!
A `Clock` event and what the master samples at it (`41_write_pipeline.md` R99; the spec's decision D2).
-/
namespace Sys2Proof.Machine

/-! ### Only events record outputs -/

theorem dispStep_keeps_trace {s t : State} (h : dispStep s = some t) : t.trace = s.trace := by
  rcases dispStep_cases h with ⟨-, -, rfl⟩ | ⟨e, es, -, -, rfl⟩ | ⟨-, rfl⟩ | ⟨-, rfl⟩ | ⟨-, -, rfl⟩ |
    ⟨e, es, -, -, -, -, rfl⟩ | ⟨e, es, -, -, -, rfl⟩ | ⟨-, -, hend⟩ | ⟨-, rfl⟩
  pick_goal 8
  · rcases endEntry_cases hend with ⟨-, rfl⟩ | ⟨-, rfl⟩ | ⟨-, -, rfl⟩ | ⟨-, rfl⟩ <;> simp
  all_goals simp

theorem internal_keeps_trace {s t : State} (h : internal s = some t) : t.trace = s.trace := by
  obtain ⟨-, h | h | h | h | h⟩ := internal_cases h
  · obtain ⟨-, -, rfl⟩ := rxUnstall_eq_some.1 h
    simp
  · obtain ⟨e, es, -, -, -, rfl⟩ := hoeStep_eq_some.1 h
    simp
  · obtain ⟨-, -, -, rfl⟩ := sdeStep_eq_some.1 h
    simp [sdeNext]
  · obtain ⟨e, es, -, -, -, rfl⟩ := rveStep_eq_some.1 h
    simp [rveNext]
  · exact dispStep_keeps_trace h

@[simp] theorem settle_trace (s : State) : (settle s).trace = s.trace :=
  settle_induction (P := fun u => u.trace = s.trace) (fun _ _ hu h => (internal_keeps_trace h).trans hu) rfl

/-! ### The value of a clock edge -/

/-- The data-out value of a `Clock` event: what `TXSM` answers where it is enabled, and `IDLE` elsewhere (R90, R91). -/
def edgeValue (s : State) : So :=
  match running s && txEnabled s, txClock s with
  | true, .ok (o, _) => o
  | _, _ => .idle

@[simp] theorem clockRest_trace (b : Bool) (o : So) (s : State) : (clockRest b o s).trace = s.trace ++ [.so o] := by
  unfold clockRest
  split
  · rw [emit_trace, settle_trace, rxClock_only_rx, State.setRx_trace]
  · rw [emit_trace, settle_trace]

/-- A `Clock` event records its value, which `RXSM` and so the data-in bit has no part in. -/
theorem clock_trace {b : Bool} {s t : State} (h : clock b s = .next t) : t.trace = s.trace ++ [.so (edgeValue s)] := by
  unfold clock at h
  cases hrun : s.sys.phase with
  | preSetup => rw [hrun] at h; cases h; simp [edgeValue, running, hrun]
  | halted => rw [hrun] at h; cases h; simp [edgeValue, running, hrun]
  | running =>
    rw [hrun] at h
    dsimp only at h
    cases hen : txEnabled s with
    | false => simp only [hen] at h; cases h; simp [edgeValue, hen]
    | true =>
      cases hclock : txClock s with
      | error f => simp [hen, hclock] at h
      | ok r =>
        obtain ⟨o, u⟩ := r
        simp only [hen, hclock, if_true] at h
        cases h
        have htx : u.trace = s.trace := by rw [txClock_only_tx hclock]; rfl
        simp [edgeValue, running, hrun, hen, hclock, htx]

/-- Settles O10: both edges record the value of the state they start from. -/
theorem dataOutIgnoresSameEdgeDataIn : Obligations.DataOutIgnoresSameEdgeDataIn := by
  intro s t u b c ht hu
  rw [clock_trace ht, clock_trace hu]

end Sys2Proof.Machine
end

section
/-!
The order of the internal steps (`41_write_pipeline.md` R99). Until the deselect is observed at most one agent takes
from a queue or fills one for the running command, so two enabled steps are that one and the pending push, which
commute; once it is observed, the dispatcher alone steps, through its exit and its reset.
-/
namespace Sys2Proof.Machine

/-! ### The pending push commutes with every transfer -/

/-- The pending push is enabled (R83). -/
def PushPending (s : State) : Prop := s.rx.stalled = true ∧ rxFull s = false

theorem rxUnstall_of_pending {s : State} (h : PushPending s) : rxUnstall s = some (rxPush s) :=
  rxUnstall_eq_some.2 ⟨h.1, h.2, rfl⟩

/-- A step that leaves the inbound path alone, or takes the head of its queue, leaves the push pending. -/
theorem PushPending.keep {s t : State} (h : PushPending s) (hcfg : t.cfg = s.cfg)
    (hrx : t.rx = s.rx ∨ t.rx = (popRx s).rx) : PushPending t := by
  obtain ⟨hst, hroom⟩ := h
  have hroom' : s.rx.fifo.length < s.cfg.rxDepth := by simpa [rxFull] using hroom
  rcases hrx with hrx | hrx
  · exact ⟨by rw [hrx]; exact hst, by simpa [rxFull, hcfg, hrx] using hroom'⟩
  · refine ⟨by rw [hrx]; exact hst, ?_⟩
    simp only [rxFull, hcfg, hrx, popRx_rx, List.length_tail, decide_eq_false_iff_not]
    omega

/-- `b` is enabled after the pending push exactly as before it, and the two reach the same state in either order. -/
def CommutesWithPush (b : State → Option State) (s t : State) : Prop :=
  b (rxPush s) = some (rxPush t) ∧ PushPending t

/-- The push appends to the queue, whose head stays. -/
theorem rxPush_fifo {s : State} {e : RxEntry} {es : List RxEntry} (hfifo : s.rx.fifo = e :: es) :
    (rxPush s).rx.fifo = e :: (es ++ [completedWord s.rx.isr]) := by
  simp [hfifo]

theorem popRx_rxPush {s : State} {e : RxEntry} {es : List RxEntry} (hfifo : s.rx.fifo = e :: es) :
    popRx (rxPush s) = rxPush (popRx s) := by
  simp [popRx, rxPush, hfifo]

theorem hoeStep_commutes_push {s t : State} (hpush : PushPending s) (h : hoeStep s = some t) :
    CommutesWithPush hoeStep s t := by
  obtain ⟨e, es, hfifo, hstart, hdone, rfl⟩ := hoeStep_eq_some.1 h
  refine ⟨hoeStep_eq_some.2 ⟨e, _, rxPush_fifo hfifo, hstart, by simp [hdone], ?_⟩, hpush.keep rfl (.inr rfl)⟩
  rw [popRx_rxPush hfifo]
  rfl

/-- `MemRead` does not see the inbound path. -/
theorem loadBytes_rxPush (n a : Nat) (s : State) :
    loadBytes n a (rxPush s) = ((loadBytes n a s).1, rxPush (loadBytes n a s).2) := by
  induction n generalizing a s with
  | zero => rfl
  | succ n ih =>
    have hload : loadByte a (rxPush s) = loadByte a s := rfl
    have hafter : afterLoad a (rxPush s) = rxPush (afterLoad a s) := by
      simp only [afterLoad, rxPush_frame]
      split <;> rfl
    simp only [loadBytes, hload, hafter, ih]

theorem sdeStep_commutes_push {s t : State} (hpush : PushPending s) (h : sdeStep s = some t) :
    CommutesWithPush sdeStep s t := by
  obtain ⟨hbusy, hcount, hroom, rfl⟩ := sdeStep_eq_some.1 h
  refine ⟨sdeStep_eq_some.2 ⟨hbusy, hcount, hroom, ?_⟩, hpush.keep ?_ (.inl ?_)⟩
  · simp only [sdeNext, rxPush_frame, loadBytes_rxPush]
    rfl
  · simp [sdeNext]
  · simp [sdeNext]

/-- `MemWrite` does not see the inbound path. -/
theorem storeByte_rxPush (a : Nat) (v : Byte) (s : State) : storeByte a v (rxPush s) = rxPush (storeByte a v s) := by
  have hraise : ∀ f, raiseFault f (rxPush s) = rxPush (raiseFault f s) := fun f => by
    simp only [raiseFault, rxPush_frame]
    split <;> rfl
  simp only [storeByte, rxPush_frame, hraise]
  split <;> rfl

theorem rveStep_commutes_push {s t : State} (hpush : PushPending s) (h : rveStep s = some t) :
    CommutesWithPush rveStep s t := by
  obtain ⟨e, es, hfifo, hbusy, hcount, rfl⟩ := rveStep_eq_some.1 h
  refine ⟨rveStep_eq_some.2 ⟨e, _, rxPush_fifo hfifo, hbusy, hcount, ?_⟩, hpush.keep ?_ (.inr ?_)⟩
  · simp only [rveNext, popRx_rxPush hfifo, storeByte_rxPush, rxPush_frame]
    rfl
  · simp [rveNext]
  · simp [rveNext]

/-! ### The steps of the dispatcher, by its position (R125) -/

section
variable {s : State}

theorem dispStep_of_idle (hs : s.disp.state = .idle) (hfifo : s.rx.fifo ≠ []) :
    dispStep s = some (gotoDisp .decode s) := by
  simp [dispStep, dispWake, hs, hfifo]

theorem dispStep_of_decode {e : RxEntry} {es : List RxEntry} (hs : s.disp.state = .decode)
    (hfifo : s.rx.fifo = e :: es) :
    dispStep s = some ((popRx s).setDisp ⟨armState (classify s.cfg.addrBits (commandWord e)), s.disp.hi,
      some (classify s.cfg.addrBits (commandWord e))⟩) := by
  simp [dispStep, dispDecode, hs, hfifo]

theorem dispStep_of_readArm (hs : s.disp.state = .readArm) : dispStep s = some (dispReadArm s) := by
  simp [dispStep, hs]

theorem dispStep_of_ignoreUnknown (hs : s.disp.state = .ignoreUnknown) : dispStep s = some (dispIgnore s) := by
  simp [dispStep, hs]

theorem dispStep_of_unpatched (hs : s.disp.state = .fastReadArm) (hjump : s.tx.jump = .normal) :
    dispStep s = some (applyFastPatch s) := by
  simp [dispStep, dispFastReadArm, patched, hs, hjump]

theorem dispStep_of_fastReadAddress {e : RxEntry} {es : List RxEntry} (hs : s.disp.state = .fastReadArm)
    (hjump : s.tx.jump = .fast) (hhi : s.disp.hi < 2) (hfifo : s.rx.fifo = e :: es) :
    dispStep s = some (gotoDisp .awaitDeselect (triggerSde (addressWord e) (popRx s))) := by
  simp [dispStep, dispFastReadArm, patched, hs, hjump, hhi, hhi.ne, hfifo]

theorem dispStep_of_writeAddress {e : RxEntry} {es : List RxEntry} (hs : s.disp.state = .writeArm)
    (hhi : s.disp.hi < 2) (hfifo : s.rx.fifo = e :: es) :
    dispStep s = some (gotoDisp .awaitDeselect (triggerRve (addressWord e) (popRx s))) := by
  simp [dispStep, dispWriteArm, hs, hhi, hhi.ne, hfifo]

/-- Once the deselect is observed the dispatcher leaves every waiting position by the exit step. -/
theorem dispStep_of_observed (hwait : Waiting s) (hhi : s.disp.hi = 2) : dispStep s = endEntry s := by
  rcases hwait with hs | hs | ⟨hs, hjump⟩
  · simp [dispStep, dispAwait, hs, hhi]
  · simp [dispStep, dispWriteArm, hs, hhi]
  · simp [dispStep, dispFastReadArm, patched, hs, hjump, hhi]

theorem dispStep_of_resetPipelines (hs : s.disp.state = .resetPipelines) : dispStep s = some (endReturn s) := by
  simp [dispStep, hs]

/-- Awaiting the deselect, the dispatcher steps only once it is observed. -/
theorem dispStep_of_awaiting (hs : s.disp.state = .awaitDeselect) (hhi : s.disp.hi ≠ 2) : dispStep s = none := by
  simp [dispStep, dispAwait, hs, hhi]

end

/-- Until the deselect is observed the dispatcher moves, patches or takes the head of the queue. -/
theorem dispStep_commutes_push {s t : State} (hpush : PushPending s) (hhi : s.disp.hi < 2)
    (hreset : s.disp.state ≠ .resetPipelines) (h : dispStep s = some t) : CommutesWithPush dispStep s t := by
  rcases dispStep_cases h with ⟨hs, hfifo, rfl⟩ | ⟨e, es, hs, hfifo, rfl⟩ | ⟨hs, rfl⟩ | ⟨hs, rfl⟩ | ⟨hs, hjump, rfl⟩ |
    ⟨e, es, hs, hjump, -, hfifo, rfl⟩ | ⟨e, es, hs, -, hfifo, rfl⟩ | ⟨-, hobserved, -⟩ | ⟨hs, -⟩
  · exact ⟨dispStep_of_idle (s := rxPush s) hs (by simp), hpush.keep rfl (.inl rfl)⟩
  · refine ⟨(dispStep_of_decode (s := rxPush s) hs (rxPush_fifo hfifo)).trans ?_, hpush.keep rfl (.inr rfl)⟩
    rw [popRx_rxPush hfifo]; rfl
  · exact ⟨dispStep_of_readArm (s := rxPush s) hs, hpush.keep rfl (.inl rfl)⟩
  · exact ⟨dispStep_of_ignoreUnknown (s := rxPush s) hs, hpush.keep rfl (.inl rfl)⟩
  · exact ⟨dispStep_of_unpatched (s := rxPush s) hs hjump, hpush.keep rfl (.inl rfl)⟩
  · refine ⟨(dispStep_of_fastReadAddress (s := rxPush s) hs hjump hhi (rxPush_fifo hfifo)).trans ?_,
      hpush.keep rfl (.inr rfl)⟩
    rw [popRx_rxPush hfifo]; rfl
  · refine ⟨(dispStep_of_writeAddress (s := rxPush s) hs hhi (rxPush_fifo hfifo)).trans ?_, hpush.keep rfl (.inr rfl)⟩
    rw [popRx_rxPush hfifo]; rfl
  · omega
  · exact absurd hs hreset

/-! ### Until the deselect is observed -/

/-- The agent whose turn it is: the dispatcher until it awaits the deselect, then the one engine that serves the
command. -/
def turn (s : State) : State → Option State :=
  if s.disp.state ≠ .awaitDeselect then dispStep
  else if s.hoe.started then hoeStep
  else if s.sde.busy then sdeStep
  else rveStep

/-- Besides the pending push only the agent whose turn it is can step (R39 (b), R87). -/
theorem agent_eq_turn {s t : State} {a : State → Option State} (h : RunningInv s) (hhi : s.disp.hi < 2)
    (ha : a ∈ agents) (hstep : a s = some t) : a = rxUnstall ∨ a = turn s := by
  obtain ⟨hone, -, -, -, -, -, ⟨hhoe, hsde, hrve⟩, -⟩ := h
  simp only [agents, List.mem_cons, List.not_mem_nil, or_false] at ha
  rcases ha with rfl | rfl | rfl | rfl | rfl
  · exact .inl rfl
  · obtain ⟨e, es, -, hstart, -⟩ := hoeStep_eq_some.1 hstep
    obtain ⟨hs, -⟩ := hhoe hstart
    exact .inr (by simp [turn, hs, hstart])
  · obtain ⟨hbusy, -⟩ := sdeStep_eq_some.1 hstep
    obtain ⟨hs, -⟩ := hsde hbusy
    have hstart : s.hoe.started = false := Bool.eq_false_iff.2 fun hb => by simpa [hbusy] using (hhoe hb).2.2
    exact .inr (by simp [turn, hs, hstart, hbusy])
  · obtain ⟨e, es, -, hbusy, -⟩ := rveStep_eq_some.1 hstep
    obtain ⟨hs, hcmd, -⟩ := hrve hbusy
    have hstart : s.hoe.started = false := Bool.eq_false_iff.2 fun hb => by simpa [hcmd] using (hhoe hb).2.1
    have hsend : s.sde.busy = false := Bool.eq_false_iff.2 fun hb => hone ⟨hb, hbusy⟩
    exact .inr (by simp [turn, hs, hstart, hsend])
  · have hs : s.disp.state ≠ .awaitDeselect := fun hs => by simp [dispStep_of_awaiting hs hhi.ne] at hstep
    exact .inr (by simp [turn, hs])

theorem turn_commutes_push {s t : State} (h : RunningInv s) (hhi : s.disp.hi < 2) (hpush : PushPending s)
    (hstep : turn s s = some t) : CommutesWithPush (turn s) s t := by
  unfold turn at hstep ⊢
  split_ifs at hstep ⊢
  · exact dispStep_commutes_push hpush hhi h.not_resetPipelines hstep
  · exact hoeStep_commutes_push hpush hstep
  · exact sdeStep_commutes_push hpush hstep
  · exact rveStep_commutes_push hpush hstep

/-- Both orders of the pending push and the step of the agent whose turn it is. -/
theorem push_turn_diamond {s s1 s2 : State} (h : RunningInv s) (hhi : s.disp.hi < 2) (hunstall : rxUnstall s = some s1)
    (hturn : turn s s = some s2) : ∃ t, turn s s1 = some t ∧ rxUnstall s2 = some t := by
  obtain ⟨hst, hroom, rfl⟩ := rxUnstall_eq_some.1 hunstall
  obtain ⟨hafter, hpending⟩ := turn_commutes_push h hhi ⟨hst, hroom⟩ hturn
  exact ⟨rxPush s2, hafter, rxUnstall_of_pending hpending⟩

theorem enabled_steps_commute {s s1 s2 : State} {a b : State → Option State} (h : RunningInv s) (hhi : s.disp.hi < 2)
    (ha : a ∈ agents) (hb : b ∈ agents) (h1 : a s = some s1) (h2 : b s = some s2) :
    s1 = s2 ∨ ∃ t, b s1 = some t ∧ a s2 = some t := by
  rcases agent_eq_turn h hhi ha h1 with rfl | rfl <;> rcases agent_eq_turn h hhi hb h2 with rfl | rfl
  · exact .inl (Option.some.inj (h1.symm.trans h2))
  · exact .inr (push_turn_diamond h hhi h1 h2)
  · obtain ⟨t, hleft, hright⟩ := push_turn_diamond h hhi h2 h1
    exact .inr ⟨t, hright, hleft⟩
  · exact .inl (Option.some.inj (h1.symm.trans h2))

/-! ### Once the deselect is observed -/

section
variable {s t : State}

theorem rxUnstall_eq_none : rxUnstall s = none ↔ s.rx.stalled = false ∨ rxFull s = true := by
  unfold rxUnstall
  cases s.rx.stalled <;> cases rxFull s <;> simp

theorem hoeStep_eq_none : hoeStep s = none ↔ s.rx.fifo = [] ∨ s.hoe.started = false ∨ s.rx.addrDone = false := by
  unfold hoeStep
  cases s.rx.fifo <;> cases s.hoe.started <;> cases s.rx.addrDone <;> simp

theorem rveStep_eq_none : rveStep s = none ↔ s.rx.fifo = [] ∨ s.rve.busy = false ∨ s.rve.count = 0 := by
  unfold rveStep
  cases s.rx.fifo <;> cases s.rve.busy <;> simp

/-- The second high sample in a row observes the deselect (R118). -/
theorem dispSample_of_waiting (hrun : s.sys.phase = .running) (hwait : Waiting s) (hcsn : s.csn = true)
    (hhi : s.disp.hi = 1) : dispSample s = s.setDisp { s.disp with hi := 2 } := by
  have henabled : sampleEnabled s = true := by
    rcases hwait with hs | hs | ⟨hs, hjump⟩ <;> simp [sampleEnabled, running, patched, *]
  rw [dispSample, henabled, hcsn, hhi]
  rfl

/-- The other agents do not see the dispatcher. -/
theorem Quiescent.others_setDisp (hq : Quiescent s) (hrun : s.sys.phase = .running) (d : Disp) :
    rxUnstall (s.setDisp d) = none ∧ hoeStep (s.setDisp d) = none ∧ sdeStep (s.setDisp d) = none ∧
      rveStep (s.setDisp d) = none := by
  obtain ⟨hunstall, hhoe, hsde, hrve, -⟩ := (quiescent_iff hrun).1 hq
  exact ⟨rxUnstall_eq_none.2 (rxUnstall_eq_none (s := s).1 hunstall), hoeStep_eq_none.2 (hoeStep_eq_none (s := s).1 hhoe),
    sdeStep_eq_none.2 (sdeStep_eq_none (s := s).1 hsde), rveStep_eq_none.2 (rveStep_eq_none (s := s).1 hrve)⟩

/-- A running receive-side engine leaves nothing queued between events. -/
theorem Quiescent.drained (hq : Quiescent s) (hrun : s.sys.phase = .running) (h : RunningInv s)
    (hbusy : s.rve.busy = true) : s.rx.fifo = [] := by
  obtain ⟨-, -, -, hrve, -⟩ := (quiescent_iff hrun).1 hq
  obtain ⟨-, -, -, -, -, -, ⟨-, -, hcount⟩, -⟩ := h
  obtain ⟨-, -, hpos⟩ := hcount hbusy
  rcases rveStep_eq_none.1 hrve with hfifo | hidle | hzero
  · exact hfifo
  · simp [hbusy] at hidle
  · omega

/-- The exit step is enabled in every waiting position, for a running receive-side engine once it has drained the
queue (R119). -/
theorem exists_endEntry (h : RunningInv s) (hwait : Waiting s) (hdrained : s.rve.busy = true → s.rx.fifo = []) :
    ∃ t, endEntry s = some t := by
  obtain ⟨-, -, -, -, ⟨-, -, hfast, hwrite, -, hawait, -⟩, -⟩ := h
  have hcmd : s.disp.cmd ≠ none := by
    rcases hwait with hs | hs | ⟨hs, -⟩
    · exact (hawait hs).1
    · simp [hwrite hs]
    · simp [hfast hs]
  obtain ⟨c, hc⟩ := Option.ne_none_iff_exists'.1 hcmd
  cases c with
  | read => exact ⟨_, by rw [endEntry, hc]⟩
  | fastRead => exact ⟨_, by rw [endEntry, hc]⟩
  | unknown => exact ⟨_, by rw [endEntry, hc]⟩
  | write =>
    refine ⟨gotoDisp .resetPipelines (abortRve s), ?_⟩
    cases hbusy : s.rve.busy with
    | false => simp [endEntry, hc, exitWrite, hbusy]
    | true => simp [endEntry, hc, exitWrite, hdrained hbusy]

theorem endEntry_keeps_rx (h : endEntry s = some t) : t.rx = s.rx := by
  rcases endEntry_cases h with ⟨-, rfl⟩ | ⟨-, rfl⟩ | ⟨-, -, rfl⟩ | ⟨-, rfl⟩ <;> simp

/-- With the engines halted the pipeline reset leaves nothing to do. -/
theorem quiescent_endReturn (h : ResetReady s) (hrun : s.sys.phase = .running) : Quiescent (endReturn s) := by
  obtain ⟨-, -, hsde, -⟩ := h
  have hfifo : (endReturn s).rx.fifo = [] := by simp [Rx.initial]
  refine (quiescent_iff (by simpa using hrun)).2 ⟨rxUnstall_eq_none.2 (.inl (by simp [Rx.initial])),
    hoeStep_eq_none.2 (.inl hfifo), sdeStep_eq_none.2 (.inl (by simpa using hsde)), rveStep_eq_none.2 (.inl hfifo), ?_⟩
  simp [dispStep, dispWake, Disp.initial, Rx.initial]

/-- After the exit step no engine can step. -/
theorem engines_blocked_of_resetReady (h : ResetReady t) :
    hoeStep t = none ∧ sdeStep t = none ∧ rveStep t = none := by
  obtain ⟨-, hhoe, hsde, hrve, -⟩ := h
  exact ⟨hoeStep_eq_none.2 (.inr (.inl hhoe)), sdeStep_eq_none.2 (.inl hsde), rveStep_eq_none.2 (.inr (.inl hrve))⟩

end

/-- Observing the deselect in a quiescent machine enables the dispatcher alone: its exit step, then its reset. -/
theorem observed_deselect_exits {s : State} (h : RunningInv s) (hrun : s.sys.phase = .running) (hq : Quiescent s)
    (hwait : Waiting s) (hcsn : s.csn = true) (hhi : s.disp.hi = 1) :
    ∃ t u, dispStep (dispSample s) = some t ∧ dispStep t = some u ∧ Quiescent u ∧
      ∀ a ∈ agents, a = dispStep ∨ a (dispSample s) = none ∧ a t = none := by
  have hdrained : s.rve.busy = true → s.rx.fifo = [] := hq.drained hrun h
  have hinv : RunningInv (dispSample s) := runningInv_dispSample h
  rw [dispSample_of_waiting hrun hwait hcsn hhi] at hinv ⊢
  obtain ⟨hunstall, hhoe, hsde, hrve⟩ := hq.others_setDisp hrun { s.disp with hi := 2 }
  obtain ⟨t, hexit⟩ := exists_endEntry hinv hwait hdrained
  have hready : ResetReady t := resetReady_endEntry hinv hexit
  have hrun' : t.sys.phase = .running := by rw [(endEntry_keeps_cfg_sys hexit).2]; exact hrun
  obtain ⟨hhoe', hsde', hrve'⟩ := engines_blocked_of_resetReady hready
  have hunstall' : rxUnstall t = none := by
    rw [rxUnstall_eq_none, rxFull, endEntry_keeps_rx hexit, (endEntry_keeps_cfg_sys hexit).1]
    exact rxUnstall_eq_none.1 hunstall
  have hexit' := dispStep_of_observed (s := s.setDisp { s.disp with hi := 2 }) hwait rfl
  refine ⟨t, endReturn t, hexit'.trans hexit, dispStep_of_resetPipelines hready.1, quiescent_endReturn hready hrun',
    fun a ha => ?_⟩
  simp only [agents, List.mem_cons, List.not_mem_nil, or_false] at ha
  rcases ha with rfl | rfl | rfl | rfl | rfl
  · exact .inr ⟨hunstall, hunstall'⟩
  · exact .inr ⟨hhoe, hhoe'⟩
  · exact .inr ⟨hsde, hsde'⟩
  · exact .inr ⟨hrve, hrve'⟩
  · exact .inl rfl

/-- Settles O36: two enabled steps are the pending push and the step of the agent whose turn it is; the observed
deselect leaves the dispatcher alone. -/
theorem internalStepOrderIsIrrelevant : Obligations.InternalStepOrderIsIrrelevant := by
  refine ⟨fun s a b s1 s2 hinv hrun hhi ha hb h1 h2 => ?_, fun s hinv hrun hq hwait hcsn hhi => ?_⟩
  · obtain ⟨-, -, -, hrunning⟩ := hinv
    exact enabled_steps_commute (hrunning hrun) hhi ha hb h1 h2
  · obtain ⟨-, -, -, hrunning⟩ := hinv
    exact observed_deselect_exits (hrunning hrun) hrun hq hwait hcsn hhi

/-- Settles O37: bus events, samples and setup end settled, and a host access enables nothing. -/
theorem stepKeepsQuiescence : Obligations.StepKeepsQuiescence :=
  fun _ _ => quiescent_step

end Sys2Proof.Machine
end

section
/-!
The hand-off engine and the receive-side engine (`42_address_handoff.md` R101, R104): what one transfer of each does.
-/
namespace Sys2Proof.Machine

variable {s : State} {e : RxEntry} {es : List RxEntry}

/-- Taking the head of the receive queue leaves the rest of it. -/
theorem popRx_of_cons (hfifo : s.rx.fifo = e :: es) : popRx s = s.setRx { s.rx with fifo := es } := by
  rw [popRx, hfifo]
  rfl

/-! ### The hand-off engine -/

/-- Settles O34: the transfer is a pop and a trigger write; a missing start, pacing signal or entry each block it. -/
theorem handOffStartsSendEngine : Obligations.HandOffStartsSendEngine := by
  refine fun s => ⟨fun e es hfifo hstarted hpaced => ?_, ?_⟩
  · refine hoeStep_eq_some.2 ⟨e, es, hfifo, hstarted, hpaced, ?_⟩
    rw [popRx_of_cons hfifo]
    rfl
  · rw [hoeStep_eq_none, or_rotate]

/-! ### The receive-side engine -/

/-- `MemWrite` does not see the receive queue. -/
theorem storeByte_popRx (a : Nat) (v : Byte) (s : State) : storeByte a v (popRx s) = popRx (storeByte a v s) := by
  have hraise : ∀ f, raiseFault f (popRx s) = popRx (raiseFault f s) := fun f => by
    simp only [raiseFault, popRx_frame]
    split <;> rfl
  simp only [storeByte, popRx_frame, hraise]
  split <;> rfl

theorem rveNext_rx (hfifo : s.rx.fifo = e :: es) : (rveNext e s).rx = { s.rx with fifo := es } := by
  simp [rveNext, hfifo]

/-- A transfer of the receive-side engine raises what its store raises. -/
theorem rveNext_faults (e : RxEntry) (s : State) :
    (rveNext e s).faults = (storeByte s.rve.waddr (dataByte e) s).faults := by
  rw [rveNext, storeByte_popRx]
  rfl

/-- A transfer touches the inbound path, the engine's own registers, the array and the record of faults only. -/
theorem rveNext_frame (e : RxEntry) (s : State) :
    rveNext e s = (((s.setRx (rveNext e s).rx).setRve (rveNext e s).rve).setMem (rveNext e s).mem).setFaults
      (rveNext e s).faults := by
  rw [rveNext, storeByte_eq]
  rfl

/-- A transfer leaves the array as its store leaves it. -/
theorem readMem_rveNext (e : RxEntry) (s : State) (a : Nat) :
    readMem (rveNext e s) a = memRead s.cfg.preserve (storeByte s.rve.waddr (dataByte e) s).mem a := by
  rw [readMem, rveNext_mem, rveNext_frame]
  rfl

/-- Settles O35: the transfer is `rveNext`, whose store splits at `MEM_SIZE`. -/
theorem receiveEngineStoresByte : Obligations.ReceiveEngineStoresByte := by
  intro s v es hfifo hbusy hcount
  refine ⟨rveNext ⟨8, v⟩ s, rveStep_eq_some.2 ⟨_, es, hfifo, hbusy, hcount, rfl⟩, rveNext_rx hfifo, rfl,
    rveNext_frame _ s, ?_⟩
  simp only [readMem_rveNext, rveNext_mem, rveNext_faults]
  rcases storeByte_spec s s.rve.waddr (dataByte ⟨8, v⟩) with ⟨hin, hstore⟩ | ⟨hout, hstore⟩
  · rw [if_pos hin, hstore]
    exact ⟨memRead_memWrite_same .., fun a ha => memRead_memWrite_other _ _ _ ha, rfl⟩
  · rw [if_neg hout.not_gt, hstore]
    exact ⟨by simp, rfl⟩

end Sys2Proof.Machine
end

section
/-!
The dispatcher, one step at a time (`43_dispatcher.md` R112 to R117, R120 to R123): the class of a command byte, the
arm states, and the exit steps with the pipeline reset, each with all that it changes.
-/
namespace Sys2Proof.Machine

variable {s : State} {e : RxEntry} {es : List RxEntry}

/-! ### Decode and the arms -/

/-- Settles O4: the class of a command word is that of the unscaled word. -/
theorem commandByteSelectsClass : Obligations.CommandByteSelectsClass :=
  fun w c _ => classify_eq w c

/-- Settles O38: the pop takes the head of the queue, and the arm is that of the head's class. -/
theorem decodeGoesToArm : Obligations.DecodeGoesToArm := by
  intro s c es hs hfifo
  rw [dispStep_of_decode hs hfifo, popRx_of_cons hfifo]
  rfl

/-- Settles O39: the arm step starts the hand-off engine and moves on. -/
theorem readArmStartsHandOff : Obligations.ReadArmStartsHandOff :=
  fun _ hs => dispStep_of_readArm hs

/-- Settles O40: the arm step of an UNKNOWN only moves on. -/
theorem ignoreUnknownWritesNothing : Obligations.IgnoreUnknownWritesNothing :=
  fun _ hs => dispStep_of_ignoreUnknown hs

/-! ### The exit step of each command -/

theorem endEntry_of_read (hc : s.disp.cmd = some .read) : endEntry s = some (exitRead s) := by
  rw [endEntry, hc]

theorem endEntry_of_fastRead (hc : s.disp.cmd = some .fastRead) : endEntry s = some (exitFast s) := by
  rw [endEntry, hc]

/-- The exit step of a WRITE waits for the queue to drain only while the receive-side engine runs (R119). -/
theorem endEntry_of_write (hc : s.disp.cmd = some .write) (hdrained : s.rx.fifo = [] ∨ s.rve.busy = false) :
    endEntry s = some (gotoDisp .resetPipelines (abortRve s)) := by
  rw [endEntry, hc]
  refine if_pos ?_
  rcases hdrained with hfifo | hidle
  · rw [hfifo]; rfl
  · rw [hidle, Bool.not_false, Bool.or_true]

/-- Aborting a halted engine changes nothing. -/
theorem abortRve_of_idle (hidle : s.rve.busy = false) : abortRve s = s := by
  rw [abortRve, ← hidle, State.setRve_self]

/-- Settles O43: the exit step of READ aborts and cancels. -/
theorem readExitAbortsAndCancels : Obligations.ReadExitAbortsAndCancels := by
  intro s hs hhi hc
  rw [dispStep_of_observed (.inl hs) hhi, endEntry_of_read hc]
  rfl

/-- From both places in which a FAST_READ waits, its exit step aborts and reverts. -/
theorem dispStep_of_fastReadExit (hwait : Waiting s) (hhi : s.disp.hi = 2) (hc : s.disp.cmd = some .fastRead) :
    dispStep s = some (((s.setSde { s.sde with busy := false, unit := .w32Bswap }).setTx
      { s.tx with jump := .normal, pull := .p32 }).setDisp { s.disp with state := .resetPipelines }) := by
  rw [dispStep_of_observed hwait hhi, endEntry_of_fastRead hc]
  rfl

/-- Settles O44: both places are waiting positions of the dispatcher. -/
theorem fastReadExitRevertsPatches : Obligations.FastReadExitRevertsPatches := by
  intro s hplace hhi hc
  exact dispStep_of_fastReadExit (hplace.imp_right .inr) hhi hc

/-- Settles O45: the reset leaves both paths at their initial values, but for the patches. -/
theorem pipelineResetEmptiesBothPaths : Obligations.PipelineResetEmptiesBothPaths := by
  intro s hs
  rw [dispStep_of_resetPipelines hs, endReturn_eq]
  rfl

/-! ### The address wait -/

/-- Before the deselect is observed a waiting dispatcher steps only to take an address (R116 to R118). -/
theorem dispStep_of_waiting (hwait : Waiting s) (hhi : s.disp.hi < 2) :
    dispStep s = none ↔ s.disp.state = .awaitDeselect ∨ s.rx.fifo = [] := by
  cases hfifo : s.rx.fifo with
  | nil =>
    refine iff_of_true ?_ (.inr rfl)
    rcases hwait with hs | hs | ⟨hs, hjump⟩
    · exact dispStep_of_awaiting hs hhi.ne
    · simp [dispStep, dispWriteArm, hs, hhi.ne, hfifo]
    · simp [dispStep, dispFastReadArm, patched, hs, hjump, hhi.ne, hfifo]
  | cons e es =>
    rcases hwait with hs | hs | ⟨hs, hjump⟩
    · exact iff_of_true (dispStep_of_awaiting hs hhi.ne) (.inl hs)
    · simp [dispStep_of_writeAddress hs hhi hfifo, hs]
    · simp [dispStep_of_fastReadAddress hs hjump hhi hfifo, hs]

/-- Settles O41: the patch, the two trigger writes, the empty queue, and the two exit steps, by the dispatcher's
position. -/
theorem addressWaitTriggersEngine : Obligations.AddressWaitTriggersEngine := by
  refine fun s => ⟨fun hs hjump => dispStep_of_unpatched hs hjump, fun e es hfifo hs hjump hhi => ?_,
    fun e es hfifo hs hhi => ?_, fun hfifo hhi harm => (dispStep_of_waiting (.inr harm) hhi).2 (.inr hfifo),
    fun hs hjump hhi hc => dispStep_of_fastReadExit (.inr (.inr ⟨hs, hjump⟩)) hhi hc, fun hs hhi hc hidle => ?_⟩
  · rw [dispStep_of_fastReadAddress hs hjump hhi hfifo, popRx_of_cons hfifo]
    rfl
  · rw [dispStep_of_writeAddress hs hhi hfifo, popRx_of_cons hfifo]
    rfl
  · rw [dispStep_of_observed (.inr (.inl hs)) hhi, endEntry_of_write hc (.inr hidle), abortRve_of_idle hidle]
    rfl

end Sys2Proof.Machine
end

section
/-!
The glitch filter and the deselect (`43_dispatcher.md` R118, R126): before the deselect is observed a sample only
counts, and once it is observed the exit step and the pipeline reset lead to the clean state.
-/
namespace Sys2Proof.Machine

variable {s t : State}

/-! ### The select line and the inbox belong to the environment -/

theorem endEntry_keeps_csn_inbox (h : endEntry s = some t) : t.csn = s.csn ∧ t.inbox = s.inbox := by
  rcases endEntry_cases h with ⟨-, rfl⟩ | ⟨-, rfl⟩ | ⟨-, -, rfl⟩ | ⟨-, rfl⟩ <;> simp

theorem dispStep_keeps_csn_inbox (h : dispStep s = some t) : t.csn = s.csn ∧ t.inbox = s.inbox := by
  rcases dispStep_cases h with ⟨-, -, rfl⟩ | ⟨e, es, -, -, rfl⟩ | ⟨-, rfl⟩ | ⟨-, rfl⟩ | ⟨-, -, rfl⟩ |
    ⟨e, es, -, -, -, -, rfl⟩ | ⟨e, es, -, -, -, rfl⟩ | ⟨-, -, hend⟩ | ⟨-, rfl⟩
  pick_goal 8
  · exact endEntry_keeps_csn_inbox hend
  all_goals simp

theorem internal_keeps_csn_inbox (h : internal s = some t) : t.csn = s.csn ∧ t.inbox = s.inbox := by
  obtain ⟨-, h | h | h | h | h⟩ := internal_cases h
  · obtain ⟨-, -, rfl⟩ := rxUnstall_eq_some.1 h
    simp
  · obtain ⟨e, es, -, -, -, rfl⟩ := hoeStep_eq_some.1 h
    simp
  · obtain ⟨-, -, -, rfl⟩ := sdeStep_eq_some.1 h
    simp [sdeNext]
  · obtain ⟨e, es, -, -, -, rfl⟩ := rveStep_eq_some.1 h
    simp [rveNext]
  · exact dispStep_keeps_csn_inbox h

@[simp] theorem settle_csn_inbox (s : State) : (settle s).csn = s.csn ∧ (settle s).inbox = s.inbox :=
  settle_induction (P := fun u => u.csn = s.csn ∧ u.inbox = s.inbox)
    (fun _ _ ⟨hcsn, hinbox⟩ h =>
      ⟨(internal_keeps_csn_inbox h).1.trans hcsn, (internal_keeps_csn_inbox h).2.trans hinbox⟩) ⟨rfl, rfl⟩

@[simp] theorem sample_csn_inbox (s : State) : (sample s).csn = s.csn ∧ (sample s).inbox = s.inbox := by
  unfold sample
  split
  · rcases dispSample_spec s with ⟨-, h⟩ | ⟨-, h⟩ <;> simp [h]
  · simp

/-! ### Samples before the deselect is observed -/

/-- A sample of a waiting dispatcher counts a high level and clears the count on a low one. -/
theorem dispSample_of_counting (hrun : s.sys.phase = .running) (hwait : Waiting s) (hhi : s.disp.hi < 2) :
    dispSample s = s.setDisp { s.disp with hi := if s.csn then s.disp.hi + 1 else 0 } := by
  have henabled : sampleEnabled s = true := by
    rcases hwait with hs | hs | ⟨hs, hjump⟩ <;> simp [sampleEnabled, running, patched, *]
  exact if_pos henabled

/-- A waiting machine with the deselect observed is not quiescent: the exit step is enabled (R119 to R124). -/
theorem Quiescent.hi_lt_two (hq : Quiescent s) (hrun : s.sys.phase = .running) (h : RunningInv s)
    (hwait : Waiting s) : s.disp.hi < 2 := by
  obtain ⟨-, -, -, -, hdisp⟩ := (quiescent_iff hrun).1 hq
  have hhi : s.disp.hi ≠ 2 := fun hhi => by
    obtain ⟨t, hexit⟩ := exists_endEntry h hwait (hq.drained hrun h)
    simp [dispStep_of_observed hwait hhi, hexit] at hdisp
  obtain ⟨-, -, -, -, -, ⟨hle, -⟩, -⟩ := h
  omega

/-- A count below 2 enables nothing. -/
theorem Quiescent.setHi (hq : Quiescent s) (hrun : s.sys.phase = .running) (hwait : Waiting s) (hhi : s.disp.hi < 2)
    {n : Nat} (hn : n < 2) : Quiescent (s.setDisp { s.disp with hi := n }) := by
  obtain ⟨-, -, -, -, hdisp⟩ := (quiescent_iff hrun).1 hq
  obtain ⟨hunstall, hhoe, hsde, hrve⟩ := hq.others_setDisp hrun { s.disp with hi := n }
  have hdisp' : dispStep (s.setDisp { s.disp with hi := n }) = none :=
    (dispStep_of_waiting (s := s.setDisp { s.disp with hi := n }) hwait hn).2 ((dispStep_of_waiting hwait hhi).1 hdisp)
  exact (quiescent_iff (s := s.setDisp { s.disp with hi := n }) hrun).2 ⟨hunstall, hhoe, hsde, hrve, hdisp'⟩

/-- A sample that does not complete the deselect changes the count and nothing else. -/
theorem sample_of_counting (hrun : s.sys.phase = .running) (hq : Quiescent s) (hwait : Waiting s)
    (hhi : s.disp.hi < 2) (hn : (if s.csn then s.disp.hi + 1 else 0) < 2) :
    sample s = s.setDisp { s.disp with hi := if s.csn then s.disp.hi + 1 else 0 } := by
  rw [sample, running, decide_eq_true hrun, if_pos rfl, dispSample_of_counting hrun hwait hhi]
  exact settle_of_quiescent (hq.setHi hrun hwait hhi hn)

/-- While selected with the count at 0 a sample finds nothing to do. -/
theorem sample_of_selected (hcsn : s.csn = false) (hhi : s.disp.hi = 0) (hq : Quiescent s) : sample s = s := by
  have hsample : dispSample s = s := by
    rcases dispSample_spec s with ⟨-, h⟩ | ⟨-, h⟩
    · rw [h, hcsn]
      exact congrArg s.setDisp (by rw [if_neg Bool.false_ne_true, ← hhi])
    · exact h
  rw [sample, hsample, settle_of_quiescent hq, ite_self]

/-- Settles O28: a step with nothing pending is a sample, and the sample of a selected machine does nothing. -/
theorem selectedTransactionNeverEnds : Obligations.SelectedTransactionNeverEnds := by
  intro s hcsn hhi hq hinbox
  rw [step_of_inbox_nil hinbox, sample_of_selected hcsn hhi hq]

/-! ### Once the deselect is observed -/

/-- The exit step halts the receive-side engine, whatever the command, and leaves its registers (R105, R178). -/
theorem endEntry_rve (h : RunningInv s) (hexit : endEntry s = some t) : t.rve = { s.rve with busy := false } := by
  obtain ⟨-, -, -, hidle, -⟩ := resetReady_endEntry h hexit
  have hsame : t.rve = s.rve → t.rve = { s.rve with busy := false } := fun hrve => by rw [← hrve, ← hidle]
  rcases endEntry_cases hexit with ⟨-, rfl⟩ | ⟨-, rfl⟩ | ⟨-, -, rfl⟩ | ⟨-, rfl⟩
  · exact hsame rfl
  · exact hsame rfl
  · rfl
  · exact hsame rfl

/-- The pipeline reset of a deselected machine reaches the clean state (R122, R140). -/
theorem cleanControl_endReturn (h : ResetReady s) (hrun : s.sys.phase = .running) (hcsn : s.csn = true) :
    CleanControl (endReturn s) := by
  obtain ⟨-, hhoe, hsde, hrve, hjump, hpull, hunit⟩ := h
  simp [CleanControl, Tx.initial, *]

/-- With no other agent enabled, the observed deselect leads through the exit step and the reset to the clean state;
of the rest only the receive-side engine is halted. -/
theorem settle_of_observed (h : RunningInv s) (hrun : s.sys.phase = .running) (hcsn : s.csn = true)
    (hwait : Waiting s) (hhi : s.disp.hi = 2) (hunstall : rxUnstall s = none) (hhoe : hoeStep s = none)
    (hsde : sdeStep s = none) (hrve : rveStep s = none) (hdrained : s.rve.busy = true → s.rx.fifo = []) :
    CleanControl (settle s) ∧ (settle s).mem = s.mem ∧ (settle s).faults = s.faults ∧
      (settle s).rve = { s.rve with busy := false } := by
  obtain ⟨t, hexit⟩ := exists_endEntry h hwait hdrained
  have hready : ResetReady t := resetReady_endEntry h hexit
  have hdisp : dispStep s = some t := (dispStep_of_observed hwait hhi).trans hexit
  obtain ⟨hcfg, hsys⟩ := endEntry_keeps_cfg_sys hexit
  obtain ⟨hmem, hfaults⟩ := dispStep_keeps_mem_faults hdisp
  have hrun' : t.sys.phase = .running := by rwa [hsys]
  have hcsn' : t.csn = true := by rwa [(endEntry_keeps_csn_inbox hexit).1]
  have hunstall' : rxUnstall t = none := by
    rw [rxUnstall_eq_none, rxFull, endEntry_keeps_rx hexit, hcfg]
    exact rxUnstall_eq_none.1 hunstall
  have hhalted : t.rve = { s.rve with busy := false } := endEntry_rve h hexit
  obtain ⟨hhoe', hsde', hrve'⟩ := engines_blocked_of_resetReady hready
  have hfirst : internal s = some t := by simp [internal, running, hrun, hunstall, hhoe, hsde, hrve, hdisp]
  have hsecond : internal t = some (endReturn t) := by
    simp [internal, running, hrun', hunstall', hhoe', hsde', hrve', dispStep_of_resetPipelines hready.1]
  rw [settle_of_internal hfirst, settle_of_internal hsecond,
    settle_of_quiescent (quiescent_endReturn hready hrun')]
  exact ⟨cleanControl_endReturn hready hrun' hcsn', hmem, hfaults, hhalted⟩

/-- The second high sample in a row ends the transaction. -/
theorem sample_of_deselect (h : RunningInv s) (hrun : s.sys.phase = .running) (hq : Quiescent s) (hwait : Waiting s)
    (hcsn : s.csn = true) (hhi : s.disp.hi = 1) :
    CleanControl (sample s) ∧ (sample s).mem = s.mem ∧ (sample s).faults = s.faults ∧
      (sample s).trace = s.trace ∧ (sample s).rve = { s.rve with busy := false } := by
  have hobserved : dispSample s = s.setDisp { s.disp with hi := 2 } := dispSample_of_waiting hrun hwait hcsn hhi
  have hinv : RunningInv (dispSample s) := runningInv_dispSample h
  rw [sample, running, decide_eq_true hrun, if_pos rfl]
  rw [hobserved] at hinv ⊢
  obtain ⟨hunstall, hhoe, hsde, hrve⟩ := hq.others_setDisp hrun { s.disp with hi := 2 }
  obtain ⟨hclean, hmem, hfaults, hrve'⟩ :=
    settle_of_observed hinv hrun hcsn hwait rfl hunstall hhoe hsde hrve (hq.drained hrun h)
  exact ⟨hclean, hmem, hfaults, settle_trace _, hrve'⟩

/-- Settles O23: the first two samples stay below the count of 2; the third case reaches it. -/
theorem filterNeedsTwoHighSamples : Obligations.FilterNeedsTwoHighSamples := by
  intro s hinv hrun hq hwait
  obtain ⟨-, -, -, hrunning⟩ := hinv
  have h : RunningInv s := hrunning hrun
  have hlt : s.disp.hi < 2 := hq.hi_lt_two hrun h hwait
  refine ⟨fun hcsn => ?_, fun hcsn hhi => ?_, fun hcsn hhi => ?_⟩
  · simpa [hcsn] using sample_of_counting hrun hq hwait hlt (by simp [hcsn])
  · simpa [hcsn, hhi] using sample_of_counting hrun hq hwait hlt (by simp [hcsn, hhi])
  · obtain ⟨hclean, hmem, hfaults, htrace, hrve⟩ := sample_of_deselect h hrun hq hwait hcsn hhi
    exact ⟨hclean, hmem, hfaults, htrace, (sample_cfg_sys s).1, hrve⟩

/-! ### Back to `IDLE` -/

/-- Between events the dispatcher rests in `IDLE` or waits for the deselect: everywhere else it has a step (R125). -/
theorem Quiescent.idle_or_waiting (hq : Quiescent s) (hrun : s.sys.phase = .running) (h : RunningInv s) :
    s.disp.state = .idle ∨ Waiting s := by
  obtain ⟨-, -, -, -, hdisp⟩ := (quiescent_iff hrun).1 hq
  cases hs : s.disp.state with
  | idle => exact .inl rfl
  | awaitDeselect => exact .inr (.inl hs)
  | writeArm => exact .inr (.inr (.inl hs))
  | fastReadArm =>
    cases hjump : s.tx.jump with
    | fast => exact .inr (.inr (.inr ⟨hs, hjump⟩))
    | normal => simp [dispStep_of_unpatched hs hjump] at hdisp
  | decode =>
    obtain ⟨-, -, -, -, -, -, -, ⟨-, -, -, -, -, -, -, -, hqueued, -⟩, -⟩ := h
    obtain ⟨e, es, hfifo⟩ := List.exists_cons_of_ne_nil (hqueued hs)
    simp [dispStep_of_decode hs hfifo] at hdisp
  | readArm => simp [dispStep_of_readArm hs] at hdisp
  | ignoreUnknown => simp [dispStep_of_ignoreUnknown hs] at hdisp
  | resetPipelines => exact absurd hs h.not_resetPipelines

/-- One sample short of the deselect, or in `IDLE` already, a sample leaves the dispatcher in `IDLE`. -/
theorem sample_reaches_idle (h : RunningInv s) (hrun : s.sys.phase = .running) (hq : Quiescent s)
    (hcsn : s.csn = true) (hnear : s.disp.state = .idle ∨ Waiting s ∧ s.disp.hi = 1) :
    (sample s).disp.state = .idle ∧ (sample s).mem = s.mem := by
  rcases hnear with hs | ⟨hwait, hhi⟩
  · rw [sample_of_idle hs hq]
    exact ⟨hs, rfl⟩
  · obtain ⟨⟨-, -, -, -, -, -, -, -, hdisp⟩, hmem, -⟩ := sample_of_deselect h hrun hq hwait hcsn hhi
    exact ⟨by rw [hdisp]; rfl, hmem⟩

/-- The first of two samples brings a deselected machine to `IDLE` or one sample short of it. -/
theorem sample_nears_idle (h : RunningInv s) (hrun : s.sys.phase = .running) (hq : Quiescent s)
    (hcsn : s.csn = true) :
    ((sample s).disp.state = .idle ∨ Waiting (sample s) ∧ (sample s).disp.hi = 1) ∧ (sample s).mem = s.mem := by
  rcases hq.idle_or_waiting hrun h with hs | hwait
  · obtain ⟨hidle, hmem⟩ := sample_reaches_idle h hrun hq hcsn (.inl hs)
    exact ⟨.inl hidle, hmem⟩
  · have hlt : s.disp.hi < 2 := hq.hi_lt_two hrun h hwait
    obtain hhi | hhi : s.disp.hi = 0 ∨ s.disp.hi = 1 := by omega
    · have hcount : sample s = s.setDisp { s.disp with hi := 1 } := by
        simpa [hcsn, hhi] using sample_of_counting hrun hq hwait hlt (by simp [hcsn, hhi])
      rw [hcount]
      exact ⟨.inr ⟨hwait, rfl⟩, rfl⟩
    · obtain ⟨hidle, hmem⟩ := sample_reaches_idle h hrun hq hcsn (.inr ⟨hwait, hhi⟩)
      exact ⟨.inl hidle, hmem⟩

/-- Settles O27: with nothing pending both steps are samples, and the machine stays invariant and quiescent between
them. -/
theorem deselectReachesIdle : Obligations.DeselectReachesIdle := by
  intro s hinv hrun hq hcsn hinbox
  have hrun' : (sample s).sys.phase = .running := by rwa [(sample_cfg_sys s).2]
  have h : RunningInv s := ((inv_iff s).1 hinv).2 hrun
  have h' : RunningInv (sample s) := ((inv_iff _).1 (inv_sample hinv)).2 hrun'
  obtain ⟨hcsn', hinbox'⟩ := sample_csn_inbox s
  obtain ⟨hnear, hmem⟩ := sample_nears_idle h hrun hq hcsn
  obtain ⟨hidle, hmem'⟩ := sample_reaches_idle h' hrun' (quiescent_sample s) (hcsn'.trans hcsn) hnear
  exact ⟨sample s, sample (sample s), step_of_inbox_nil hinbox, step_of_inbox_nil (hinbox'.trans hinbox), hidle,
    hmem'.trans hmem⟩

end Sys2Proof.Machine
end

section
/-!
Samples of a selected machine (`43_dispatcher.md` R118; the spec's decision D14): between the events of a selected
transaction the count stays at 0, so every sample finds nothing to do.
-/
namespace Sys2Proof.Machine

variable {s t : State}

/-! ### The count stays at 0 without a high sample -/

theorem dispStep_keeps_hi_zero (hhi : s.disp.hi = 0) (h : dispStep s = some t) : t.disp.hi = 0 := by
  rcases dispStep_cases h with ⟨-, -, rfl⟩ | ⟨e, es, -, -, rfl⟩ | ⟨-, rfl⟩ | ⟨-, rfl⟩ | ⟨-, -, rfl⟩ |
    ⟨e, es, -, -, -, -, rfl⟩ | ⟨e, es, -, -, -, rfl⟩ | ⟨-, hobserved, -⟩ | ⟨-, rfl⟩
  pick_goal 8
  · omega
  pick_goal 8
  · rfl
  all_goals exact hhi

theorem internal_keeps_hi_zero (hhi : s.disp.hi = 0) (h : internal s = some t) : t.disp.hi = 0 := by
  obtain ⟨-, h | h | h | h | h⟩ := internal_cases h
  · obtain ⟨-, -, rfl⟩ := rxUnstall_eq_some.1 h
    exact hhi
  · obtain ⟨e, es, -, -, -, rfl⟩ := hoeStep_eq_some.1 h
    exact hhi
  · obtain ⟨-, -, -, rfl⟩ := sdeStep_eq_some.1 h
    simpa [sdeNext] using hhi
  · obtain ⟨e, es, -, -, -, rfl⟩ := rveStep_eq_some.1 h
    simpa [rveNext] using hhi
  · exact dispStep_keeps_hi_zero hhi h

theorem settle_hi_zero (hhi : s.disp.hi = 0) : (settle s).disp.hi = 0 :=
  settle_induction (P := fun u => u.disp.hi = 0) (fun _ _ => internal_keeps_hi_zero) hhi

/-! ### Clock edges and samples of a selected machine -/

/-- Selected, with no high sample counted. -/
def SelectedUncounted (s : State) : Prop := s.csn = false ∧ s.disp.hi = 0

theorem SelectedUncounted.congr (h : SelectedUncounted s) (hcsn : t.csn = s.csn) (hdisp : t.disp = s.disp) :
    SelectedUncounted t := by
  unfold SelectedUncounted
  rwa [hcsn, hdisp]

theorem SelectedUncounted.of_clockRest (b : Bool) (o : So) (h : SelectedUncounted s) :
    SelectedUncounted (clockRest b o s) := by
  have hsettle : ∀ u, SelectedUncounted u → SelectedUncounted (emit (.so o) (settle u)) := fun u hu =>
    ⟨(settle_csn_inbox u).1.trans hu.1, settle_hi_zero hu.2⟩
  unfold clockRest
  refine hsettle _ ?_
  split
  · rw [rxClock_only_rx]
    exact h
  · exact h

/-- A clock edge touches neither the select line nor a count of 0. -/
theorem SelectedUncounted.of_clock {b : Bool} (h : SelectedUncounted s) (ht : clock b s = .next t) :
    SelectedUncounted t := by
  unfold clock at ht
  split at ht
  case h_1 => cases ht; exact h.congr (by simp) (by simp)
  case h_2 => cases ht; exact h
  case h_3 =>
    split at ht
    · split at ht
      case h_1 r hr =>
        cases ht
        have htx : SelectedUncounted r.2 := by
          rw [txClock_only_tx hr]
          exact h
        exact htx.of_clockRest b r.1
      case h_2 => cases ht
    · cases ht
      exact h.of_clockRest b .idle

/-- Every sample among clock edges of a selected machine can be left out, or put in. -/
theorem doEvents_filter_samples {es : List Event} (h : SelectedUncounted s) (hq : Quiescent s)
    (hes : ∀ e ∈ es, e = .sample ∨ ∃ b, e = .clock b) :
    doEvents es s = doEvents (es.filter fun e => decide (e ≠ .sample)) s := by
  induction es generalizing s with
  | nil => rfl
  | cons e es ih =>
    obtain ⟨he, htail⟩ := List.forall_mem_cons.1 hes
    rcases he with rfl | ⟨b, rfl⟩
    · have hnothing : doEvent .sample s = .next s := congrArg _ (sample_of_selected h.1 h.2 hq)
      rw [List.filter_cons_of_neg (by simp), doEvents_cons, hnothing]
      exact ih h hq htail
    · rw [List.filter_cons_of_pos (by simp), doEvents_cons, doEvents_cons]
      cases hclock : doEvent (.clock b) s with
      | next u => exact ih (h.of_clock hclock) (quiescent_clock hclock) htail
      | fault r => rfl
      | refused r => rfl

/-- Settles O24: the falling select of a clean machine leaves the count at 0, and so does all that follows. -/
theorem sampleScheduleIsIrrelevant : Obligations.SampleScheduleIsIrrelevant := by
  intro s es hclean hes
  have hq : Quiescent s := quiescent_of_clean hclean
  obtain ⟨hrun, -, -, -, -, -, -, -, hdisp⟩ := hclean
  have hfall : doEvent .selectFall s = .next (s.setCsn false) := congrArg _ (selectFall_of_quiescent hrun hq)
  have hselected : SelectedUncounted (s.setCsn false) := ⟨rfl, by rw [State.setCsn_disp, hdisp]; rfl⟩
  rw [doEvents_cons, doEvents_cons, hfall]
  exact doEvents_filter_samples hselected (quiescent_setCsn false hq) hes

end Sys2Proof.Machine
end

section
/-!
The end of a WRITE (`43_dispatcher.md` R119, `42_address_handoff.md` R105, vector V82): the receive-side engine empties
the queue entry by entry, and then the exit step and the pipeline reset run.
-/
namespace Sys2Proof.Machine

variable {s : State} {e : RxEntry} {es : List RxEntry}

/-- `MemWrite` beyond the array records its fault once (R42, R164). -/
theorem storeByte_faults (a : Nat) (v : Byte) (s : State) :
    (storeByte a v s).faults =
      if a < s.cfg.memSize then s.faults
      else if .writeOutOfRange a ∈ s.faults then s.faults else s.faults ++ [.writeOutOfRange a] := by
  unfold storeByte raiseFault
  split_ifs <;> rfl

/-- The offsets of `n + 1` bytes from `a` are `a` and those of `n` bytes after it. -/
theorem offsets_succ (a n : Nat) :
    (List.range (n + 1)).map (a + ·) = a :: (List.range n).map (a + 1 + ·) := by
  simp [List.range_succ_eq_map, Function.comp_def, Nat.add_assoc, Nat.add_comm 1]

/-- A WRITE whose deselect is observed, with transfers left for all that is still queued (R119, D16). -/
structure Draining (s : State) : Prop where
  inv : RunningInv s
  run : s.sys.phase = .running
  deselected : s.csn = true
  awaiting : s.disp.state = .awaitDeselect
  write : s.disp.cmd = some .write
  observed : s.disp.hi = 2
  notStalled : s.rx.stalled = false
  engaged : s.rx.fifo ≠ [] → s.rve.busy = true
  enough : s.rx.fifo.length ≤ s.rve.count

/-- The other agents have nothing to do for a WRITE. -/
theorem Draining.others_blocked (h : Draining s) : rxUnstall s = none ∧ hoeStep s = none ∧ sdeStep s = none := by
  obtain ⟨-, -, -, -, -, -, ⟨hhoe, hsde, -⟩, -⟩ := h.inv
  have hhoe' : s.hoe.started = false := Bool.eq_false_iff.2 fun hb => by simpa [h.write] using (hhoe hb).2.1
  have hsde' : s.sde.busy = false := Bool.eq_false_iff.2 fun hb => by simpa [Reading, h.write] using (hsde hb).2.1
  exact ⟨rxUnstall_eq_none.2 (.inl h.notStalled), hoeStep_eq_none.2 (.inr (.inl hhoe')), sdeStep_eq_none.2 (.inl hsde')⟩

/-- While an entry is queued the next internal step is the engine's transfer. -/
theorem Draining.internal_eq (h : Draining s) (hfifo : s.rx.fifo = e :: es) : internal s = some (rveNext e s) := by
  obtain ⟨hunstall, hhoe, hsde⟩ := h.others_blocked
  have hcount : 0 < s.rve.count := by have := h.enough; simp [hfifo] at this; omega
  have hrve : rveStep s = some (rveNext e s) :=
    rveStep_eq_some.2 ⟨e, es, hfifo, h.engaged (by simp [hfifo]), hcount, rfl⟩
  simp [internal, running, h.run, hunstall, hhoe, hsde, hrve]

/-- After a transfer there is one entry and one transfer less. -/
theorem Draining.after_transfer (h : Draining s) (hfifo : s.rx.fifo = e :: es) : Draining (rveNext e s) := by
  have hbusy : s.rve.busy = true := h.engaged (by simp [hfifo])
  have hrx : (rveNext e s).rx = { s.rx with fifo := es } := rveNext_rx hfifo
  have hlen : es.length + 1 ≤ s.rve.count := by simpa [hfifo] using h.enough
  have hframe := rveNext_frame e s
  exact
    { inv := runningInv_rveNext h.inv hfifo hbusy
      run := by rw [hframe]; exact h.run
      deselected := by rw [hframe]; exact h.deselected
      awaiting := by rw [hframe]; exact h.awaiting
      write := by rw [hframe]; exact h.write
      observed := by rw [hframe]; exact h.observed
      notStalled := by rw [hrx]; exact h.notStalled
      engaged := fun hne => by
        rw [hrx] at hne
        have hpos : 0 < es.length := List.length_pos_iff.2 hne
        exact decide_eq_true (by omega : s.rve.count - 1 ≠ 0)
      enough := by
        rw [hrx]
        exact (by omega : es.length ≤ s.rve.count - 1) }

/-- The engine stores the queued bytes at the offsets from its pointer on, and then the machine is clean. -/
theorem Draining.settle_stores (h : Draining s) (hfifo : s.rx.fifo = es) :
    CleanControl (settle s) ∧ (settle s).mem = storeAll s.cfg s.rve.waddr (es.map dataByte) s.mem ∧
      (settle s).faults =
        faultsOfWrites s.cfg.memSize ((List.range es.length).map (s.rve.waddr + ·)) s.faults := by
  induction es generalizing s with
  | nil =>
    obtain ⟨hunstall, hhoe, hsde⟩ := h.others_blocked
    obtain ⟨hclean, hmem, hfaults, -⟩ :=
      settle_of_observed h.inv h.run h.deselected (.inl h.awaiting) h.observed hunstall hhoe hsde
        (rveStep_eq_none.2 (.inl hfifo)) fun _ => hfifo
    exact ⟨hclean, hmem, hfaults⟩
  | cons e es ih =>
    have hcfg : (rveNext e s).cfg = s.cfg := by rw [rveNext_frame]; rfl
    obtain ⟨hclean, hmem, hfaults⟩ := ih (h.after_transfer hfifo) (by rw [rveNext_rx hfifo])
    rw [hcfg, rveNext_mem, storeByte_mem] at hmem
    rw [hcfg, rveNext_faults, storeByte_faults] at hfaults
    rw [settle_of_internal (h.internal_eq hfifo), List.length_cons, offsets_succ]
    exact ⟨hclean, hmem, hfaults⟩

/-- Settles O42: the engine drains the queue, by induction on its entries, before the exit step is enabled. -/
theorem drainStoresEveryQueuedByte : Obligations.DrainStoresEveryQueuedByte := by
  intro s hinv hrun hcsn hs hc hhi hbusy hst hlen
  have hdraining : Draining s :=
    ⟨((inv_iff s).1 hinv).2 hrun, hrun, hcsn, hs, hc, hhi, hst, fun _ => hbusy, hlen⟩
  obtain ⟨hclean, hmem, hfaults⟩ := hdraining.settle_stores rfl
  exact ⟨hclean, hmem, hfaults, settle_trace s⟩

end Sys2Proof.Machine
end

section
/-!
The record of outputs is only written: every event of a frame does the same whatever was recorded before
(`00_scope.md` R9, `44_commands.md` R139).
-/
namespace Sys2Proof.Machine

variable (s : State) (tr : List Output)

/-! ### Internal steps do not read the record -/

theorem raiseFault_setTrace (f : SpecFault) : raiseFault f (s.setTrace tr) = (raiseFault f s).setTrace tr := by
  unfold raiseFault
  rw [State.setTrace_faults]
  split <;> rfl

theorem storeByte_setTrace (a : Nat) (v : Byte) :
    storeByte a v (s.setTrace tr) = (storeByte a v s).setTrace tr := by
  unfold storeByte
  rw [State.setTrace_cfg, raiseFault_setTrace]
  split <;> rfl

theorem loadBytes_setTrace (n a : Nat) :
    loadBytes n a (s.setTrace tr) = ((loadBytes n a s).1, (loadBytes n a s).2.setTrace tr) := by
  induction n generalizing a s with
  | zero => rfl
  | succ n ih =>
    have hload : loadByte a (s.setTrace tr) = loadByte a s := rfl
    have hafter : afterLoad a (s.setTrace tr) = (afterLoad a s).setTrace tr := by
      unfold afterLoad
      rw [State.setTrace_cfg]
      split <;> rfl
    simp only [loadBytes, hload, hafter, ih]

theorem endEntry_setTrace : endEntry (s.setTrace tr) = (endEntry s).map (State.setTrace · tr) := by
  unfold endEntry exitWrite
  rw [State.setTrace_disp, State.setTrace_rx, State.setTrace_rve]
  split
  · split <;> rfl
  all_goals rfl

theorem dispFastReadArm_setTrace :
    dispFastReadArm (s.setTrace tr) = (dispFastReadArm s).map (State.setTrace · tr) := by
  have hpatched : patched (s.setTrace tr) = patched s := rfl
  unfold dispFastReadArm
  rw [hpatched, State.setTrace_disp, State.setTrace_rx, endEntry_setTrace]
  cases s.rx.fifo with
  | nil => split_ifs <;> rfl
  | cons e es => split_ifs <;> rfl

theorem dispWriteArm_setTrace : dispWriteArm (s.setTrace tr) = (dispWriteArm s).map (State.setTrace · tr) := by
  unfold dispWriteArm
  rw [State.setTrace_disp, State.setTrace_rx, endEntry_setTrace]
  cases s.rx.fifo with
  | nil => split_ifs <;> rfl
  | cons e es => split_ifs <;> rfl

theorem dispStep_setTrace : dispStep (s.setTrace tr) = (dispStep s).map (State.setTrace · tr) := by
  unfold dispStep
  rw [State.setTrace_disp]
  cases s.disp.state with
  | idle =>
    dsimp only [dispWake]
    rw [State.setTrace_rx]
    split <;> rfl
  | decode =>
    dsimp only [dispDecode]
    rw [State.setTrace_rx]
    cases s.rx.fifo <;> rfl
  | fastReadArm => exact dispFastReadArm_setTrace s tr
  | writeArm => exact dispWriteArm_setTrace s tr
  | awaitDeselect =>
    dsimp only [dispAwait]
    rw [State.setTrace_disp, endEntry_setTrace]
    split <;> rfl
  | readArm => rfl
  | ignoreUnknown => rfl
  | resetPipelines => rfl

theorem internal_setTrace : internal (s.setTrace tr) = (internal s).map (State.setTrace · tr) := by
  have hunstall : rxUnstall (s.setTrace tr) = (rxUnstall s).map (State.setTrace · tr) := by
    have hfull : rxFull (s.setTrace tr) = rxFull s := rfl
    unfold rxUnstall
    rw [State.setTrace_rx, hfull]
    split <;> rfl
  have hhoe : hoeStep (s.setTrace tr) = (hoeStep s).map (State.setTrace · tr) := by
    unfold hoeStep
    rw [State.setTrace_rx, State.setTrace_hoe]
    cases s.rx.fifo with
    | nil => rfl
    | cons e es => dsimp only; split <;> rfl
  have hsde : sdeStep (s.setTrace tr) = (sdeStep s).map (State.setTrace · tr) := by
    have hfull : txFull (s.setTrace tr) = txFull s := rfl
    unfold sdeStep
    rw [State.setTrace_sde, hfull]
    dsimp only
    rw [loadBytes_setTrace]
    split <;> rfl
  have hrve : rveStep (s.setTrace tr) = (rveStep s).map (State.setTrace · tr) := by
    have hpop : popRx (s.setTrace tr) = (popRx s).setTrace tr := rfl
    unfold rveStep
    rw [State.setTrace_rx, State.setTrace_rve, hpop]
    cases s.rx.fifo with
    | nil => rfl
    | cons e es => dsimp only; rw [storeByte_setTrace]; split <;> rfl
  have hrun : running (s.setTrace tr) = running s := rfl
  unfold internal
  rw [hrun, hunstall, hhoe, hsde, hrve, dispStep_setTrace]
  split
  · simp only [Option.map_or]
  · rfl

theorem settle_setTrace : settle (s.setTrace tr) = (settle s).setTrace tr := by
  have hfor : ∀ (n : Nat) (u : State), settleFor n (u.setTrace tr) = (settleFor n u).setTrace tr := by
    intro n
    induction n with
    | zero => exact fun _ => rfl
    | succ n ih =>
      intro u
      unfold settleFor
      rw [internal_setTrace]
      cases internal u with
      | none => rfl
      | some v => exact ih v
  exact hfor (settleBound s) s

/-! ### The events of a frame only append to the record -/

/-- A piece of a run appends outputs that do not depend on the record, and reads it nowhere else. -/
def AppendsOutputs (f : State → Host.Outcome State Fault Refusal) : Prop :=
  ∀ s t, f s = .next t → ∃ outs, t.trace = s.trace ++ outs ∧ ∀ tr, f (s.setTrace tr) = .next (t.setTrace (tr ++ outs))

theorem AppendsOutputs.andThen {f g : State → Host.Outcome State Fault Refusal} (hf : AppendsOutputs f)
    (hg : AppendsOutputs g) : AppendsOutputs fun s => andThen (f s) g := by
  intro s u h
  obtain ⟨t, ht, hu⟩ := andThen_eq_next.1 h
  obtain ⟨outs, htrace, hsame⟩ := hf s t ht
  obtain ⟨outs', htrace', hsame'⟩ := hg t u hu
  refine ⟨outs ++ outs', by rw [htrace', htrace, List.append_assoc], fun tr => ?_⟩
  dsimp only
  rw [hsame tr, andThen_next, hsame', List.append_assoc]

/-- An event that records nothing. -/
theorem AppendsOutputs.of_silent {f : State → State} (htrace : ∀ s, (f s).trace = s.trace)
    (hsame : ∀ s tr, f (s.setTrace tr) = (f s).setTrace tr) : AppendsOutputs fun s => .next (f s) := by
  intro s t h
  obtain rfl : f s = t := by simpa using h
  exact ⟨[], by rw [htrace, List.append_nil], fun tr => by rw [List.append_nil, ← hsame]⟩

theorem selectFall_appends : AppendsOutputs fun s => .next (selectFall s) := by
  refine .of_silent (fun s => ?_) fun s tr => ?_
  · unfold selectFall
    split <;> simp
  · have hcsn : (s.setTrace tr).setCsn false = (s.setCsn false).setTrace tr := rfl
    unfold selectFall
    rw [State.setTrace_sys, hcsn, raiseFault_setTrace, settle_setTrace]
    split <;> rfl

theorem selectRise_appends : AppendsOutputs fun s => .next (selectRise s) := by
  refine .of_silent (fun s => ?_) fun s tr => ?_
  · unfold selectRise
    split
    · rfl
    · rw [settle_trace]; split <;> simp
    · rfl
  · have hcsn : (s.setTrace tr).setCsn true = (s.setCsn true).setTrace tr := rfl
    have hshort : leavesShortCommand (s.setTrace tr) = leavesShortCommand s := rfl
    unfold selectRise
    rw [State.setTrace_sys, hcsn, raiseFault_setTrace, hshort, ← apply_ite (State.setTrace · tr), settle_setTrace]
    split <;> rfl

theorem sample_appends : AppendsOutputs fun s => .next (sample s) := by
  have hsample : ∀ s tr, dispSample (s.setTrace tr) = (dispSample s).setTrace tr := fun s tr => by
    have henabled : sampleEnabled (s.setTrace tr) = sampleEnabled s := rfl
    unfold dispSample
    rw [henabled]
    split <;> rfl
  refine .of_silent (fun s => ?_) fun s tr => ?_
  · unfold sample
    split
    · rcases dispSample_spec s with ⟨-, h⟩ | ⟨-, h⟩ <;> simp [h]
    · rfl
  · have hrun : running (s.setTrace tr) = running s := rfl
    unfold sample
    rw [hsample, settle_setTrace, hrun]
    split <;> rfl

/-- What `TXSM` answers at a clock edge, with another record. -/
theorem txClock_setTrace : txClock (s.setTrace tr) = (txClock s).map fun r => (r.1, r.2.setTrace tr) := by
  have hpull : ∀ e, txPull e (s.setTrace tr) = (txPull e s).map (State.setTrace · tr) := fun e => by
    unfold txPull
    rw [State.setTrace_tx]
    split <;> rfl
  have hout : ∀ u : State, txShiftOut (u.setTrace tr) = ((txShiftOut u).1, (txShiftOut u).2.setTrace tr) := fun u => by
    unfold txShiftOut
    rw [State.setTrace_tx]
    split <;> rfl
  unfold txClock
  rw [State.setTrace_tx]
  cases s.tx.ip with
  | dummy => rfl
  | entry =>
    dsimp only
    unfold txFirst
    rw [State.setTrace_tx]
    cases s.tx.fifo with
    | nil => rfl
    | cons e es =>
      dsimp only
      rw [hpull]
      cases txPull e s with
      | error f => rfl
      | ok u =>
        cases s.tx.jump with
        | normal => exact congrArg Except.ok (hout (txEnterShift u))
        | fast => rfl
  | shift =>
    dsimp only
    unfold txNext
    rw [State.setTrace_tx]
    cases s.tx.osr with
    | cons b bs => exact congrArg Except.ok (hout s)
    | nil =>
      cases s.tx.fifo with
      | nil => rfl
      | cons e es =>
        dsimp only
        rw [hpull]
        cases txPull e s with
        | error f => rfl
        | ok u => exact congrArg Except.ok (hout u)

theorem clockRest_setTrace (b : Bool) (o : So) :
    clockRest b o (s.setTrace tr) = (clockRest b o s).setTrace (tr ++ [.so o]) := by
  have henabled : rxEnabled (s.setTrace tr) = rxEnabled s := rfl
  have hclock : rxClock b (s.setTrace tr) = (rxClock b s).setTrace tr := by
    have hcnt : rxCnt (rxShiftIn b (s.setTrace tr)) = rxCnt (rxShiftIn b s) := rfl
    have hfull : rxFull (rxShiftIn b (s.setTrace tr)) = rxFull (rxShiftIn b s) := rfl
    unfold rxClock rxComplete
    rw [hcnt, hfull, State.setTrace_cfg, State.setTrace_rx]
    split_ifs <;> rfl
  unfold clockRest
  rw [henabled, hclock, ← apply_ite (State.setTrace · tr), settle_setTrace]
  rfl

theorem clock_appends (b : Bool) : AppendsOutputs (clock b) := by
  intro s t h
  have henabled : ∀ tr, txEnabled (s.setTrace tr) = txEnabled s := fun _ => rfl
  have hrest : ∀ o u, u.trace = s.trace → clockRest b o u = t →
      t.trace = s.trace ++ [.so o] ∧ ∀ tr, clockRest b o (u.setTrace tr) = t.setTrace (tr ++ [.so o]) := by
    rintro o u hu rfl
    exact ⟨by rw [clockRest_trace, hu], fun tr => clockRest_setTrace u tr b o⟩
  unfold clock at h ⊢
  simp only [State.setTrace_sys, henabled, txClock_setTrace, raiseFault_setTrace]
  cases hphase : s.sys.phase with
  | preSetup =>
    rw [hphase] at h
    cases h
    exact ⟨[.so .idle], by simp, fun _ => rfl⟩
  | halted =>
    rw [hphase] at h
    cases h
    exact ⟨[.so .idle], by simp, fun _ => rfl⟩
  | running =>
    rw [hphase] at h
    dsimp only at h ⊢
    split at h
    case isFalse hdisabled =>
      obtain ⟨htrace, hsame⟩ := hrest .idle s rfl (Host.Outcome.next.inj h)
      exact ⟨_, htrace, fun tr => by rw [if_neg hdisabled, hsame]⟩
    case isTrue hen =>
      cases hclock : txClock s with
      | error f => rw [hclock] at h; cases h
      | ok r =>
        rw [hclock] at h
        have hr : r.2.trace = s.trace := by rw [txClock_only_tx (o := r.1) hclock]; rfl
        obtain ⟨htrace, hsame⟩ := hrest r.1 r.2 hr (Host.Outcome.next.inj h)
        exact ⟨_, htrace, fun tr => by rw [if_pos hen, ← hsame]; rfl⟩

theorem doEvents_appends {es : List Event} (hes : ∀ e ∈ es, AppendsOutputs (doEvent e)) :
    AppendsOutputs (doEvents es) := by
  induction es with
  | nil => exact .of_silent (f := id) (fun _ => rfl) fun _ _ => rfl
  | cons e es ih =>
    obtain ⟨he, htail⟩ := List.forall_mem_cons.1 hes
    exact he.andThen (ih htail)

/-- A whole frame appends its outputs and does not depend on the record. -/
theorem transact_appends (bits : List Bool) : AppendsOutputs (transact bits) := by
  refine doEvents_appends fun e he => ?_
  simp only [frameEvents, deselect, List.mem_cons, List.mem_append, List.mem_map, List.not_mem_nil, or_false] at he
  rcases he with rfl | ⟨b, -, rfl⟩ | rfl | rfl | rfl
  · exact selectFall_appends
  · exact clock_appends b
  · exact selectRise_appends
  · exact sample_appends
  · exact sample_appends

theorem exec_appends (i : Instr) : AppendsOutputs (exec i) := by
  intro s t h
  rw [exec_eq_transact] at h
  obtain ⟨outs, htrace, hsame⟩ := transact_appends _ s t h
  exact ⟨outs, htrace, fun tr => by rw [exec_eq_transact]; exact hsame tr⟩

end Sys2Proof.Machine
end

section
/-!
Serving a transaction (`44_commands.md` R137, R138): what holds between its clock edges, how the deselect ends it, and
that a glitch of the select line does not.
-/
namespace Sys2Proof.Machine

variable {s t : State}

/-! ### Between the clock edges of a transaction -/

theorem runningInv_settle (hwf : s.cfg.wf) (hrun : s.sys.phase = .running) (h : RunningInv s) :
    RunningInv (settle s) := by
  have hserving : (settle s).cfg.wf ∧ ServingInv (settle s) :=
    settle_induction (P := fun u => u.cfg.wf ∧ ServingInv u)
      (fun u v hu huv => ⟨(internal_keeps_cfg_sys huv).1 ▸ hu.1, servingInv_internal hu.1 hu.2 huv⟩) ⟨hwf, .inl h⟩
  rcases hserving.2 with hinv | ⟨hreset, -⟩
  · exact hinv
  · obtain ⟨-, -, -, -, hdisp⟩ := (quiescent_iff (by simpa using hrun)).1 (settle_quiescent s)
    simp [dispStep_of_resetPipelines hreset] at hdisp

/-- A running machine is selected, with every internal step taken and no high sample counted. -/
structure Selected (s : State) : Prop where
  wf : s.cfg.wf
  run : s.sys.phase = .running
  low : s.csn = false
  uncounted : s.disp.hi = 0
  quiet : Quiescent s
  inv : RunningInv s

theorem runningInv_of_clean (h : CleanControl s) : RunningInv s := by
  obtain ⟨-, -, hrx, htx, hhoe, hsde, hunit, hrve, hdisp⟩ := h
  exact runningInv_initial hrx htx hdisp hhoe hsde hrve hunit

theorem Selected.of_clean (h : CleanControl s) (hwf : s.cfg.wf) : Selected (s.setCsn false) := by
  have hinv := runningInv_of_clean h
  have hq := quiescent_of_clean h
  obtain ⟨hrun, -, -, -, -, -, -, -, hdisp⟩ := h
  exact ⟨hwf, hrun, rfl, by rw [State.setCsn_disp, hdisp]; rfl, quiescent_setCsn false hq, hinv⟩

/-- A clock edge of a selected machine: `TXSM` answers, and the rest of the edge follows (R99). -/
theorem clock_of_txClock {b : Bool} {o : So} (h : Selected s) (htx : txClock s = .ok (o, t)) :
    clock b s = .next (clockRest b o t) := by
  obtain ⟨-, -, -, -, -, -, -, -, hen, -⟩ := h.inv
  simp [clock, h.run, txEnabled, hen, h.low, htx]

theorem Selected.of_clock {b : Bool} (h : Selected s) (ht : clock b s = .next t) : Selected t := by
  obtain ⟨hcfg, hsys⟩ := clock_keeps_cfg_sys ht
  obtain ⟨hlow, hcount⟩ := SelectedUncounted.of_clock ⟨h.low, h.uncounted⟩ ht
  refine ⟨by rw [hcfg]; exact h.wf, by rw [hsys]; exact h.run, hlow, hcount, quiescent_clock ht, ?_⟩
  obtain ⟨-, -, -, ⟨hsized, -⟩, -⟩ := h.inv
  obtain ⟨⟨o, u⟩, hu⟩ := txClock_answers hsized
  obtain ⟨hcfg', hsys'⟩ := txClock_keeps_cfg_sys hu
  have hinv : RunningInv u := runningInv_txClock h.inv hu
  have hwf : u.cfg.wf := by rw [hcfg']; exact h.wf
  have hrun : u.sys.phase = .running := by rw [hsys']; exact h.run
  rw [clock_of_txClock h hu] at ht
  cases ht
  unfold clockRest
  split
  case isTrue hen =>
    simp only [rxEnabled, Bool.and_eq_true, Bool.not_eq_true'] at hen
    exact runningInv_settle (s := rxClock b u) (by simpa using hwf) (by simpa using hrun)
      (runningInv_rxClock b hinv hen.2)
  case isFalse => exact runningInv_settle hwf hrun hinv

theorem Selected.of_clocks {bits : List Bool} (h : Selected s) (ht : doEvents (bits.map .clock) s = .next t) :
    Selected t := by
  induction bits generalizing s with
  | nil => cases ht; exact h
  | cons b bits ih =>
    obtain ⟨u, hu, htail⟩ := andThen_eq_next.1 ht
    exact ih (h.of_clock hu) htail

/-! ### The end of a transaction -/

/-- The clean state a transaction ends in: the shifters and the dispatcher at their initial values, the engines halted
with their registers as they were, and the rest as it was (R140). -/
def cleaned (s : State) : State :=
  ((((((s.setCsn true).setRx Rx.initial).setTx Tx.initial).setHoe ⟨false⟩).setSde
    ⟨false, s.sde.raddr, s.sde.count, .w32Bswap⟩).setRve ⟨false, s.rve.waddr, s.rve.count⟩).setDisp Disp.initial

/-- What a transaction leaves in the clean state, field by field. -/
theorem cleaned_eq (s : State) :
    cleaned s = ⟨s.cfg, s.sys, true, Rx.initial, Tx.initial, ⟨false⟩, ⟨false, s.sde.raddr, s.sde.count, .w32Bswap⟩,
      ⟨false, s.rve.waddr, s.rve.count⟩, Disp.initial, s.mem, s.faults, s.inbox, s.trace, s.draws⟩ := rfl

/-- A clean machine is as it would be after a transaction that changes nothing. -/
theorem cleaned_of_clean (h : CleanControl s) : cleaned s = s := by
  obtain ⟨-, hcsn, hrx, htx, hhoe, hsde, hunit, hrve, hdisp⟩ := h
  have hhoe' : Hoe.mk false = s.hoe := by rw [← hhoe]
  have hsde' : Sde.mk false s.sde.raddr s.sde.count .w32Bswap = s.sde := by rw [← hsde, ← hunit]
  have hrve' : Rve.mk false s.rve.waddr s.rve.count = s.rve := by rw [← hrve]
  rw [cleaned, ← hcsn, State.setCsn_self, ← hrx, State.setRx_self, ← htx, State.setTx_self, hhoe', State.setHoe_self,
    hsde', State.setSde_self, hrve', State.setRve_self, ← hdisp, State.setDisp_self]

/-- The exit step of each command, and then the pipeline reset, clean a deselected machine. -/
theorem endReturn_endEntry (h : RunningInv s) (hcsn : s.csn = true) (hexit : endEntry s = some t) :
    endReturn t = cleaned s := by
  have hready : ResetReady t := resetReady_endEntry h hexit
  have hrve : t.rve = { s.rve with busy := false } := endEntry_rve h hexit
  obtain ⟨-, hhoe, hsde, -, hjump, hpull, hunit⟩ := hready
  have hsame : t = ((((s.setTx t.tx).setHoe t.hoe).setSde t.sde).setRve t.rve).setDisp t.disp ∧
      t.sde.raddr = s.sde.raddr ∧ t.sde.count = s.sde.count := by
    rcases endEntry_cases hexit with ⟨-, rfl⟩ | ⟨-, rfl⟩ | ⟨-, -, rfl⟩ | ⟨-, rfl⟩ <;> exact ⟨rfl, rfl, rfl⟩
  obtain ⟨hsame, hraddr, hcount⟩ := hsame
  have hhoe' : t.hoe = ⟨false⟩ := by rw [← hhoe]
  have hsde' : t.sde = ⟨false, s.sde.raddr, s.sde.count, .w32Bswap⟩ := by rw [← hsde, ← hunit, ← hraddr, ← hcount]
  have hself : s.setCsn true = s := by rw [← hcsn, State.setCsn_self]
  rw [endReturn_eq, hjump, hpull, hsame, hsde', hhoe', hrve, cleaned, hself]
  rfl

/-- The second high sample in a row cleans the machine. -/
theorem sample_eq_cleaned (h : RunningInv s) (hrun : s.sys.phase = .running) (hq : Quiescent s) (hwait : Waiting s)
    (hcsn : s.csn = true) (hhi : s.disp.hi = 1) : sample s = cleaned s := by
  have hinv : RunningInv (dispSample s) := runningInv_dispSample h
  rw [sample, running, decide_eq_true hrun, if_pos rfl]
  rw [dispSample_of_waiting hrun hwait hcsn hhi] at hinv ⊢
  obtain ⟨hunstall, hhoe, hsde, hrve⟩ := hq.others_setDisp hrun { s.disp with hi := 2 }
  obtain ⟨t, hexit⟩ := exists_endEntry hinv hwait (hq.drained hrun h)
  have hready : ResetReady t := resetReady_endEntry hinv hexit
  have hrun' : t.sys.phase = .running := by rw [(endEntry_keeps_cfg_sys hexit).2]; exact hrun
  have hunstall' : rxUnstall t = none := by
    rw [rxUnstall_eq_none, rxFull, endEntry_keeps_rx hexit, (endEntry_keeps_cfg_sys hexit).1]
    exact rxUnstall_eq_none.1 hunstall
  obtain ⟨hhoe', hsde', hrve'⟩ := engines_blocked_of_resetReady hready
  have hdisp := (dispStep_of_observed (s := s.setDisp { s.disp with hi := 2 }) hwait rfl).trans hexit
  have hfirst : internal (s.setDisp { s.disp with hi := 2 }) = some t := by
    simp [internal, running, hrun, hunstall, hhoe, hsde, hrve, hdisp]
  have hsecond : internal t = some (endReturn t) := by
    simp [internal, running, hrun', hunstall', hhoe', hsde', hrve', dispStep_of_resetPipelines hready.1]
  rw [settle_of_internal hfirst, settle_of_internal hsecond, settle_of_quiescent (quiescent_endReturn hready hrun'),
    endReturn_endEntry hinv hcsn hexit]
  rfl

/-- Where the dispatcher waits, no bit of a command byte is lost by a rising select (R154). -/
theorem leavesShortCommand_of_waiting (hwait : Waiting s) : leavesShortCommand s = false := by
  rcases hwait with hs | hs | ⟨hs, -⟩ <;> simp [leavesShortCommand, hs]

theorem selectRise_of_waiting (hrun : s.sys.phase = .running) (hq : Quiescent s) (hwait : Waiting s) :
    selectRise s = s.setCsn true := by
  rw [selectRise, hrun, leavesShortCommand_of_waiting hwait]
  exact settle_of_quiescent (quiescent_setCsn true hq)

/-- The first high sample of a waiting machine counts to one. -/
theorem sample_of_first_high (hrun : s.sys.phase = .running) (hq : Quiescent s) (hwait : Waiting s)
    (hcsn : s.csn = true) (hhi : s.disp.hi = 0) : sample s = s.setDisp { s.disp with hi := 1 } := by
  simpa [hcsn, hhi] using sample_of_counting hrun hq hwait (by omega) (by simp [hcsn, hhi])

theorem deselect_of_waiting (h : Selected s) (hwait : Waiting s) : doEvents deselect s = .next (cleaned s) := by
  have hq : Quiescent (s.setCsn true) := quiescent_setCsn true h.quiet
  have hfirst := sample_of_first_high (s := s.setCsn true) h.run hq hwait rfl h.uncounted
  have hinv : RunningInv (sample (s.setCsn true)) := by
    have := runningInv_dispSample (s := s.setCsn true) h.inv
    rw [dispSample_of_counting (s := s.setCsn true) h.run hwait (by rw [State.setCsn_disp, h.uncounted]; omega)] at this
    rw [hfirst]
    simpa [h.uncounted] using this
  have hq' := quiescent_sample (s.setCsn true)
  rw [hfirst] at hinv hq'
  have hsecond := sample_eq_cleaned hinv h.run hq' hwait rfl rfl
  simp only [deselect, doEvents_cons, doEvents_nil, doEvent, andThen_next, selectRise_of_waiting h.run h.quiet hwait,
    hfirst, hsecond]
  rfl

/-- A frame whose clock edges leave the dispatcher waiting ends in the clean state. -/
theorem transact_of_waiting {bits : List Bool} (h : CleanControl s) (hwf : s.cfg.wf)
    (ht : doEvents (bits.map .clock) (s.setCsn false) = .next t) (hwait : Waiting t) :
    transact bits s = .next (cleaned t) := by
  have hsel : Selected t := (Selected.of_clean h hwf).of_clocks ht
  rw [transact_eq, selectFall_of_quiescent h.1 (quiescent_of_clean h), ht, andThen_next,
    deselect_of_waiting hsel hwait]

/-! ### A glitch -/

/-- A falling select after a glitch finds nothing to do, whatever was counted below 2. -/
theorem selectFall_after_glitch (hrun : s.sys.phase = .running) (hlow : s.csn = false) (hq : Quiescent s) :
    selectFall (s.setCsn true) = s := by
  rw [selectFall_of_quiescent (s := s.setCsn true) hrun (quiescent_setCsn true hq), State.setCsn_setCsn, ← hlow,
    State.setCsn_self]

/-- Settles O25: the one high sample counts to one, and the low sample after it clears the count again. -/
theorem glitchIsInvisible : Obligations.GlitchIsInvisible := by
  intro s hrun hlow hhi hq hwait
  have hrise := selectRise_of_waiting hrun hq hwait
  have hcount : sample (s.setCsn true) = (s.setDisp { s.disp with hi := 1 }).setCsn true :=
    sample_of_first_high (s := s.setCsn true) hrun (quiescent_setCsn true hq) hwait rfl hhi
  have hq' : Quiescent (s.setDisp { s.disp with hi := 1 }) := hq.setHi hrun hwait (by omega) (by omega)
  have hfall := selectFall_after_glitch (s := s.setDisp { s.disp with hi := 1 }) hrun hlow hq'
  have hclear : sample (s.setDisp { s.disp with hi := 1 }) = s.setDisp { s.disp with hi := 0 } := by
    simpa [hlow] using
      sample_of_counting (s := s.setDisp { s.disp with hi := 1 }) hrun hq' hwait (by simp) (by simp [hlow])
  have hself : s.setDisp { s.disp with hi := 0 } = s := by rw [← hhi, State.setDisp_self]
  simp only [doEvents_cons, doEvents_nil, doEvent, andThen_next, hrise, hcount, hfall, hclear, hself,
    selectFall_after_glitch hrun hlow hq, and_self]

end Sys2Proof.Machine
end

section
/-!
Runs of clock edges (`41_write_pipeline.md` R99): the state they lead to and the outputs they return, apart from what
was recorded before; words that are collected and pushed while nothing is driven.
-/
namespace Sys2Proof.Machine

variable {s t u : State}

theorem idles_append (m n : Nat) : idles m ++ idles n = idles (m + n) := List.replicate_append_replicate

/-! ### Runs -/

/-- The clock edges of `bits` lead from `s` to `t` and return `outs`, whatever was recorded before. -/
def Clocked (bits : List Bool) (s t : State) (outs : List Output) : Prop :=
  ∀ tr, doEvents (bits.map .clock) (s.setTrace tr) = .next (t.setTrace (tr ++ outs))

theorem clocks_append_outputs (bits : List Bool) : AppendsOutputs (doEvents (bits.map .clock)) :=
  doEvents_appends fun e he => by
    obtain ⟨b, -, rfl⟩ := List.mem_map.1 he
    exact clock_appends b

/-- One run shows what the edges do, since they do not read the record. -/
theorem Clocked.of_eq {bits : List Bool} {outs : List Output}
    (h : doEvents (bits.map .clock) s = .next (t.setTrace (s.trace ++ outs))) : Clocked bits s t outs := by
  obtain ⟨outs', htrace, hsame⟩ := clocks_append_outputs bits s _ h
  obtain rfl : outs = outs' := List.append_cancel_left htrace
  exact hsame

theorem Clocked.eq {bits : List Bool} {outs : List Output} (h : Clocked bits s t outs) :
    doEvents (bits.map .clock) s = .next (t.setTrace (s.trace ++ outs)) := h s.trace

theorem Clocked.nil (s : State) : Clocked [] s s [] := .of_eq (by simp)

theorem Clocked.append {bits bits' : List Bool} {outs outs' : List Output} (h : Clocked bits s t outs)
    (h' : Clocked bits' t u outs') : Clocked (bits ++ bits') s u (outs ++ outs') := fun tr => by
  rw [List.map_append, doEvents_append, h tr, andThen_next, h' (tr ++ outs), List.append_assoc]

theorem Selected.of_clocked {bits : List Bool} {outs : List Output} (h : Selected s) (ht : Clocked bits s t outs) :
    Selected t := by
  obtain ⟨hwf, hrun, hlow, hcount, hq, hinv⟩ := h.of_clocks ht.eq
  refine ⟨hwf, hrun, hlow, hcount, ?_, hinv⟩
  exact (quiescent_congr (s := t) (t := t.setTrace (s.trace ++ outs)) rfl rfl rfl rfl rfl rfl rfl rfl rfl rfl rfl).1 hq

/-- `RXSM` at a clock edge, where it is enabled (R80, R81). -/
def rxEdge (b : Bool) (s : State) : State := if rxEnabled s then rxClock b s else s

theorem rxEdge_only_rx (b : Bool) (s : State) : rxEdge b s = s.setRx (rxEdge b s).rx := by
  unfold rxEdge
  split
  · exact rxClock_only_rx s b
  · rfl

/-- No clock edge leaves a push pending: a word is held only while the queue is full (R83). -/
theorem rxUnstall_rxEdge (b : Bool) (h : rxUnstall s = none) : rxUnstall (rxEdge b s) = none := by
  unfold rxEdge
  split
  case isFalse => exact h
  case isTrue hen =>
    have hst : s.rx.stalled = false := by simp only [rxEnabled, Bool.and_eq_true, Bool.not_eq_true'] at hen; exact hen.2
    rcases rxClock_cases s b with ⟨-, heq⟩ | ⟨-, hfull, heq⟩ | ⟨-, -, heq⟩ <;> rw [heq]
    · exact rxUnstall_eq_none.2 (.inl hst)
    · exact rxUnstall_eq_none.2 (.inr hfull)
    · exact rxUnstall_eq_none.2 (.inl rfl)

/-- One edge of a selected machine: `TXSM` answers, then `RXSM` samples, then the internal steps are taken (R99). -/
theorem clocked_of_txClock {b : Bool} {o : So} (h : Selected s) (htx : txClock s = .ok (o, t)) :
    Clocked [b] s (settle (rxEdge b t)) [.so o] := by
  refine .of_eq ?_
  have htrace : (settle (rxEdge b t)).trace = s.trace := by
    rw [settle_trace, rxEdge_only_rx, txClock_only_tx htx]; rfl
  rw [List.map_singleton, doEvents_cons, doEvent, clock_of_txClock h htx, ← htrace]
  rfl

/-! ### Words, while nothing is driven -/

/-- A selected machine that collects a word and has nothing to send. -/
structure Listening (s : State) : Prop where
  sel : Selected s
  notStalled : s.rx.stalled = false
  txEntry : s.tx.ip = .entry
  txEmpty : s.tx.fifo = []

theorem txClock_of_nothing (hip : s.tx.ip = .entry) (hfifo : s.tx.fifo = []) : txClock s = .ok (.idle, s) := by
  rw [txClock, hip]
  exact txFirst_of_empty hfifo

theorem Listening.rxEdge_eq (b : Bool) (h : Listening s) : rxEdge b s = rxClock b s := by
  obtain ⟨-, -, -, -, -, -, -, ⟨hen, -⟩, -⟩ := h.sel.inv
  exact if_pos (by simp [rxEnabled, hen, h.sel.low, h.notStalled])

/-- Bits that complete no word are collected, and the master samples `IDLE` at each. -/
theorem clocked_collect {bits : List Bool} (h : Listening s)
    (hmore : rxCnt s + bits.length < rxTarget s.cfg.addrBits s.rx.ip) :
    Clocked bits s (s.setRx { s.rx with isr := s.rx.isr ++ bits }) (idles bits.length) := by
  induction bits generalizing s with
  | nil =>
    rw [List.append_nil]
    exact .nil s
  | cons b bits ih =>
    rw [List.length_cons] at hmore
    have hq : Quiescent (rxShiftIn b s) :=
      (quiescent_congr (s := s) (t := rxShiftIn b s) rfl rfl rfl rfl rfl rfl rfl rfl rfl rfl rfl).2 h.sel.quiet
    have hedge := clocked_of_txClock (b := b) h.sel (txClock_of_nothing h.txEntry h.txEmpty)
    rw [h.rxEdge_eq, rxClock_of_more b (by omega), settle_of_quiescent hq] at hedge
    have hcnt : rxCnt (rxShiftIn b s) = rxCnt s + 1 := by simp [rxCnt]
    have hrest := ih (s := rxShiftIn b s) ⟨h.sel.of_clocked hedge, h.notStalled, h.txEntry, h.txEmpty⟩
      (by rw [hcnt]; exact (by omega : rxCnt s + 1 + bits.length < rxTarget s.cfg.addrBits s.rx.ip))
    simpa [rxShiftIn, idles, List.replicate_succ] using hedge.append hrest

/-- The inbound path after a word of these bits is pushed (R81). -/
def Rx.pushed (r : Rx) (bits : List Bool) : Rx :=
  ⟨r.en, rxNextIp r.ip, [], r.fifo ++ [⟨bits.length, ofBits bits⟩], false, r.addrDone || decide (r.ip = .addr)⟩

/-- A word that finds room is pushed at its last bit, and the agents take their steps (R81, R99). -/
theorem clocked_word {bits : List Bool} (h : Listening s) (hisr : s.rx.isr = []) (hroom : rxFull s = false)
    (hlen : bits.length = rxTarget s.cfg.addrBits s.rx.ip) :
    Clocked bits s (settle (s.setRx (s.rx.pushed bits))) (idles bits.length) := by
  cases bits using List.reverseRecOn with
  | nil => exact absurd hlen (rxTarget_pos _ _).ne
  | append_singleton bits b =>
    rw [List.length_append, List.length_singleton] at hlen
    have hcnt : rxCnt s = 0 := by simp [rxCnt, hisr]
    have hcollect := clocked_collect (bits := bits) h (by omega)
    rw [hisr, List.nil_append] at hcollect
    have hlast : Listening (s.setRx { s.rx with isr := bits }) :=
      ⟨h.sel.of_clocked hcollect, h.notStalled, h.txEntry, h.txEmpty⟩
    have hedge := clocked_of_txClock (b := b) hlast.sel (txClock_of_nothing hlast.txEntry hlast.txEmpty)
    rw [hlast.rxEdge_eq, rxClock_of_word_room (s := s.setRx { s.rx with isr := bits }) b hlen hroom] at hedge
    rw [List.length_append, ← idles_append]
    exact hcollect.append hedge

end Sys2Proof.Machine
end

section
/-!
The command byte and the address phase (`44_commands.md` R133, R136, R139): the dispatcher arms the command, and a
frame that goes no further, or an UNKNOWN one of any length, changes nothing.
-/
namespace Sys2Proof.Machine

variable {s t : State}

/-- A frame whose clock edges leave the dispatcher waiting ends in the clean state. -/
theorem transact_of_clocked {bits : List Bool} {outs : List Output} (h : CleanControl s) (hwf : s.cfg.wf)
    (ht : Clocked bits (s.setCsn false) t outs) (hwait : Waiting t) :
    transact bits s = .next ((cleaned t).setTrace (s.trace ++ outs)) :=
  transact_of_waiting (t := t.setTrace (s.trace ++ outs)) h hwf ht.eq hwait

/-! ### The command byte -/

/-- With nothing engaged and no word held, only the dispatcher steps. -/
theorem internal_of_disengaged (hrun : s.sys.phase = .running) (h : Disengaged s) (hst : s.rx.stalled = false) :
    internal s = dispStep s := by
  obtain ⟨hhoe, hsde, hrve, -⟩ := h
  simp [internal, running, hrun, rxUnstall_eq_none.2 (.inl hst), hoeStep_eq_none.2 (.inr (.inl hhoe)),
    sdeStep_eq_none.2 (.inl hsde), rveStep_eq_none.2 (.inr (.inl hrve))]

/-- A waiting dispatcher with an empty queue and no transfer to send leaves nothing to do. -/
theorem quiescent_of_waiting (hrun : s.sys.phase = .running) (hwait : Waiting s) (hhi : s.disp.hi < 2)
    (hst : s.rx.stalled = false) (hfifo : s.rx.fifo = []) (hsde : s.sde.busy = false) : Quiescent s :=
  (quiescent_iff hrun).2 ⟨rxUnstall_eq_none.2 (.inl hst), hoeStep_eq_none.2 (.inl hfifo), sdeStep_eq_none.2 (.inl hsde),
    rveStep_eq_none.2 (.inl hfifo), (dispStep_of_waiting hwait hhi).2 (.inr hfifo)⟩

/-- The inbound path with the command taken, collecting the address (R81). -/
def Rx.atAddress : Rx := ⟨true, .addr, [], [], false, false⟩

/-- A clean machine after it was selected and the dispatcher has decoded a command. -/
def decoded (c : Cmd) (s : State) : State :=
  ((s.setCsn false).setRx Rx.atAddress).setDisp ⟨armState c, 0, some c⟩

/-- The same, waiting for the address or, for an UNKNOWN, for the deselect (R114 to R117). -/
def armed : Cmd → State → State
  | .read, s => dispReadArm (decoded .read s)
  | .fastRead, s => applyFastPatch (decoded .fastRead s)
  | .write, s => decoded .write s
  | .unknown, s => dispIgnore (decoded .unknown s)

theorem disengaged_of_clean (h : CleanControl s) : Disengaged s :=
  (runningInv_of_clean h).disengaged (by obtain ⟨-, -, -, -, -, -, -, -, hdisp⟩ := h; simp [hdisp, Disp.initial])

theorem armed_frame (c : Cmd) (s : State) :
    (armed c s).cfg = s.cfg ∧ (armed c s).sys = s.sys ∧ (armed c s).rx = Rx.atAddress ∧ (armed c s).disp.hi = 0 ∧
      (armed c s).sde.busy = s.sde.busy ∧ (armed c s).tx.ip = s.tx.ip ∧ (armed c s).tx.fifo = s.tx.fifo := by
  cases c <;> exact ⟨rfl, rfl, rfl, rfl, rfl, rfl, rfl⟩

theorem waiting_armed (c : Cmd) (s : State) : Waiting (armed c s) := by
  cases c with
  | read => exact .inl rfl
  | fastRead => exact .inr (.inr ⟨rfl, rfl⟩)
  | write => exact .inr (.inl rfl)
  | unknown => exact .inl rfl

theorem quiescent_armed (c : Cmd) (h : CleanControl s) : Quiescent (armed c s) := by
  obtain ⟨-, hsys, hrx, hhi, hsde, -⟩ := armed_frame c s
  obtain ⟨hrun, -, -, -, -, hidle, -⟩ := h
  exact quiescent_of_waiting (by rw [hsys, hrun]) (waiting_armed c s) (by omega) (by rw [hrx]; rfl) (by rw [hrx]; rfl)
    (by rw [hsde, hidle])

/-- The dispatcher's steps after decoding lead to the arm's waiting place. -/
theorem settle_decoded (c : Cmd) (h : CleanControl s) : settle (decoded c s) = armed c s := by
  have hdis : Disengaged (decoded c s) := (disengaged_of_clean h :)
  have hjump : s.tx.jump = .normal := by obtain ⟨-, -, -, htx, -⟩ := h; rw [htx]; rfl
  have hstep : dispStep (decoded c s) = some (armed c s) → settle (decoded c s) = armed c s := fun hdisp => by
    have hfirst := internal_of_disengaged (s := decoded c s) h.1 hdis rfl
    rw [settle_of_internal (hfirst.trans hdisp), settle_of_quiescent (quiescent_armed c h)]
  cases c with
  | read => exact hstep (dispStep_of_readArm rfl)
  | fastRead => exact hstep (dispStep_of_unpatched rfl hjump)
  | write => exact settle_of_quiescent (quiescent_armed .write h)
  | unknown => exact hstep (dispStep_of_ignoreUnknown rfl)

/-- A clean machine after it was selected and a command word was pushed. -/
def commanded (n : Nat) (s : State) : State := (s.setCsn false).setRx ⟨true, .addr, [], [⟨8, n⟩], false, false⟩

/-- The command word wakes the dispatcher, which decodes it and arms its class (R111 to R117). -/
theorem settle_commanded (n : Nat) (h : CleanControl s) :
    settle (commanded n s) = armed (classify s.cfg.addrBits n) s := by
  have hdis : Disengaged (commanded n s) := (disengaged_of_clean h :)
  have hdisp : (commanded n s).disp = ⟨.idle, 0, none⟩ := by obtain ⟨-, -, -, -, -, -, -, -, hdisp⟩ := h; exact hdisp
  have hwake : internal (commanded n s) = some (gotoDisp .decode (commanded n s)) :=
    (internal_of_disengaged (s := commanded n s) h.1 hdis rfl).trans
      (dispStep_of_idle (by rw [hdisp]) (by simp [commanded]))
  have hdecode : internal (gotoDisp .decode (commanded n s)) = some (decoded (classify s.cfg.addrBits n) s) := by
    rw [internal_of_disengaged (s := gotoDisp .decode (commanded n s)) h.1 hdis rfl, dispStep_of_decode rfl rfl,
      gotoDisp_disp, hdisp]
    rfl
  rw [settle_of_internal hwake, settle_of_internal hdecode, settle_decoded _ h]

theorem listening_of_clean (h : CleanControl s) (hwf : s.cfg.wf) : Listening (s.setCsn false) := by
  have hsel := Selected.of_clean h hwf
  obtain ⟨-, -, hrx, htx, -⟩ := h
  exact ⟨hsel, by simp [hrx, Rx.initial], by simp [htx, Tx.initial], by simp [htx, Tx.initial]⟩

/-- An empty queue has room. -/
theorem rxFull_of_empty (hwf : s.cfg.wf) (hfifo : s.rx.fifo = []) : rxFull s = false := by
  obtain ⟨hdepth, -⟩ := hwf
  simp [rxFull, hfifo]
  omega

/-- The clock edges of the command byte arm its class. -/
theorem clocked_command (b : Byte) (h : CleanControl s) (hwf : s.cfg.wf) :
    Clocked (byteBits b) (s.setCsn false) (armed (classify s.cfg.addrBits b.toNat) s) (idles 8) := by
  have hrx : (s.setCsn false).rx = Rx.initial := h.2.2.1
  have hword := clocked_word (bits := byteBits b) (listening_of_clean h hwf) (by rw [hrx]; rfl)
    (rxFull_of_empty hwf (by rw [hrx]; rfl)) (by rw [hrx]; rfl)
  have hpushed : (s.setCsn false).setRx ((s.setCsn false).rx.pushed (byteBits b)) = commanded b.toNat s := by
    rw [hrx, Rx.pushed, ofBits_byteBits]
    rfl
  rwa [hpushed, settle_commanded _ h] at hword

/-- An armed machine collects the address. -/
theorem listening_armed (b : Byte) (h : CleanControl s) (hwf : s.cfg.wf) :
    Listening (armed (classify s.cfg.addrBits b.toNat) s) := by
  obtain ⟨-, -, hrx, -, -, hip, hfifo⟩ := armed_frame (classify s.cfg.addrBits b.toNat) s
  have hsel := (Selected.of_clean h hwf).of_clocked (clocked_command b h hwf)
  obtain ⟨-, -, -, htx, -⟩ := h
  exact ⟨hsel, by rw [hrx]; rfl, by rw [hip, htx]; rfl, by rw [hfifo, htx]; rfl⟩

/-! ### A frame that ends in the address phase -/

/-- Whatever was collected for an armed command, the deselect leaves nothing of it. -/
theorem cleaned_armed (c : Cmd) (r : Rx) (h : CleanControl s) : cleaned ((armed c s).setRx r) = s := by
  have hsame : cleaned ((armed c s).setRx r) = cleaned s := by
    rw [cleaned_eq, cleaned_eq]
    cases c <;> rfl
  rw [hsame, cleaned_of_clean h]

/-- A frame cut in its address phase, whatever its command byte (R136). -/
theorem transact_cut (b : Byte) {got : List Bool} (h : CleanControl s) (hwf : s.cfg.wf)
    (hcut : got.length < s.cfg.addrBits.bits) :
    transact (byteBits b ++ got) s = .next (s.setTrace (s.trace ++ idles (8 + got.length))) := by
  obtain ⟨hcfg, -, hrx, -⟩ := armed_frame (classify s.cfg.addrBits b.toNat) s
  have hcollect := clocked_collect (bits := got) (listening_armed b h hwf)
    (by simpa [rxCnt, hrx, hcfg, Rx.atAddress, rxTarget] using hcut)
  rw [transact_of_clocked h hwf ((clocked_command b h hwf).append hcollect) (waiting_armed _ s),
    cleaned_armed _ _ h, idles_append]

/-- Settles O15: the four frames differ in the command byte alone, of which nothing remains. -/
theorem cutAddressTransaction : Obligations.CutAddressTransaction := by
  intro s got h hwf hcut
  exact ⟨transact_cut 0x03 h hwf hcut, transact_cut 0x0B h hwf hcut, transact_cut 0x02 h hwf hcut,
    fun cmd _ => transact_cut cmd h hwf hcut⟩

/-! ### Words that no agent takes -/

/-- A selected machine that awaits the deselect with every engine halted and nothing to send: no agent takes what is
pushed. -/
structure Deaf (s : State) : Prop where
  sel : Selected s
  awaiting : s.disp.state = .awaitDeselect
  noHandOff : s.hoe.started = false
  noSend : s.sde.busy = false
  noStore : s.rve.busy = false
  txEntry : s.tx.ip = .entry
  txEmpty : s.tx.fifo = []

/-- At a clock edge of such a machine only the inbound path moves. -/
theorem clocked_deaf_edge (b : Bool) (h : Deaf s) :
    ∃ r, Clocked [b] s (s.setRx r) [.so .idle] ∧ Deaf (s.setRx r) := by
  have hedge := clocked_of_txClock (b := b) h.sel (txClock_of_nothing h.txEntry h.txEmpty)
  have honly := rxEdge_only_rx b s
  have hunstall := rxUnstall_rxEdge b ((quiescent_iff h.sel.run).1 h.sel.quiet).1
  rw [honly] at hedge hunstall
  have hq : Quiescent (s.setRx (rxEdge b s).rx) :=
    (quiescent_iff (s := s.setRx (rxEdge b s).rx) h.sel.run).2 ⟨hunstall, hoeStep_eq_none.2 (.inr (.inl h.noHandOff)),
      sdeStep_eq_none.2 (.inl h.noSend), rveStep_eq_none.2 (.inr (.inl h.noStore)),
      dispStep_of_awaiting (s := s.setRx (rxEdge b s).rx) h.awaiting (by simp [h.sel.uncounted])⟩
  rw [settle_of_quiescent hq] at hedge
  exact ⟨_, hedge, h.sel.of_clocked hedge, h.awaiting, h.noHandOff, h.noSend, h.noStore, h.txEntry, h.txEmpty⟩

theorem clocked_deaf (bits : List Bool) (h : Deaf s) : ∃ r, Clocked bits s (s.setRx r) (idles bits.length) := by
  induction bits generalizing s with
  | nil => exact ⟨s.rx, .nil s⟩
  | cons b bits ih =>
    obtain ⟨r, hedge, hdeaf⟩ := clocked_deaf_edge b h
    obtain ⟨r', hrest⟩ := ih hdeaf
    exact ⟨r', hedge.append hrest⟩

theorem classify_unknown (w : AddrBits) {cmd : Byte} (h : unknownCmdOk cmd = true) :
    classify w cmd.toNat = .unknown := by
  obtain ⟨hread, hfast, hwrite⟩ := (unknownCmdOk_iff cmd).1 h
  rw [classify_byte, if_neg hread, if_neg hfast, if_neg hwrite]

/-- Settles O14: an armed UNKNOWN takes no further word, and the deselect leaves nothing of what was queued. -/
theorem unknownTransaction : Obligations.UnknownTransaction := by
  intro s cmd rest h hwf hcmd
  have hcommand := clocked_command cmd h hwf
  have hlisten := listening_armed cmd h hwf
  rw [classify_unknown _ hcmd] at hcommand hlisten
  obtain ⟨hhoe, hsde, hrve, -⟩ := disengaged_of_clean h
  obtain ⟨r, hrest⟩ := clocked_deaf rest
    ⟨hlisten.sel, rfl, hhoe, hsde, hrve, hlisten.txEntry, hlisten.txEmpty⟩
  rw [exec_eq_transact]
  exact (transact_of_clocked h hwf (hcommand.append hrest) (waiting_armed .unknown s)).trans
    (by rw [cleaned_armed _ _ h, idles_append])

/-- Settles O19: of an UNKNOWN only its outputs remain, and no instruction reads the record of outputs. -/
theorem unknownDoesNotInterfere : Obligations.UnknownDoesNotInterfere := by
  intro s t cmd rest i h hwf hcmd ht
  obtain ⟨outs, htrace, hsame⟩ := exec_appends i s t ht
  exact ⟨_, _, outs, unknownTransaction s cmd rest h hwf hcmd, rfl, hsame _, htrace, rfl, rfl⟩

end Sys2Proof.Machine
end

section
/-!
WRITE (`44_commands.md` R132): the address word starts the receive-side engine, which stores every complete byte as it
arrives; trailing bits are collected and dropped.
-/
namespace Sys2Proof.Machine

variable {s t : State}

/-! ### The address word -/

/-- The inbound path with the address taken, collecting data bytes (R81). -/
def Rx.atData : Rx := ⟨true, .data, [], [], false, true⟩

/-- An armed machine after the address word was pushed. -/
def addressed (c : Cmd) (A : Nat) (s : State) : State :=
  (armed c s).setRx { Rx.atData with fifo := [⟨s.cfg.addrBits.bits, A⟩] }

/-- The clock edges of the address push its word. -/
theorem clocked_address {c : Cmd} {A : Nat} (h : Listening (armed c s)) (hA : A < 2 ^ s.cfg.addrBits.bits) :
    Clocked (toBits s.cfg.addrBits.bits A) (armed c s) (settle (addressed c A s)) (idles s.cfg.addrBits.bits) := by
  obtain ⟨hcfg, -, hrx, -⟩ := armed_frame c s
  have hword := clocked_word (bits := toBits s.cfg.addrBits.bits A) h (by rw [hrx]; rfl)
    (rxFull_of_empty h.sel.wf (by rw [hrx]; rfl)) (by rw [hrx, hcfg, toBits_length]; rfl)
  have hpushed : (armed c s).setRx ((armed c s).rx.pushed (toBits s.cfg.addrBits.bits A)) = addressed c A s := by
    rw [hrx, Rx.pushed, ofBits_toBits, Nat.mod_eq_of_lt hA, toBits_length]
    rfl
  rwa [hpushed, toBits_length] at hword

/-! ### Data bytes -/

/-- A WRITE past its address: every data byte so far is stored, and the receive-side engine runs while it has
transfers left. -/
structure Storing (s : State) : Prop where
  listen : Listening s
  atData : s.rx = Rx.atData
  awaiting : s.disp.state = .awaitDeselect
  noHandOff : s.hoe.started = false
  noSend : s.sde.busy = false
  busy : s.rve.busy = decide (s.rve.count ≠ 0)

/-- The receive-side engine's registers after `n` transfers (R104). -/
def Rve.after (e : Rve) (n : Nat) : Rve := ⟨decide (e.count - n ≠ 0), e.waddr + n, e.count - n⟩

/-- With no word held and no other engine running, a transfer of the receive-side engine comes first. -/
theorem internal_of_rveStep (hrun : s.sys.phase = .running) (hst : s.rx.stalled = false)
    (hhoe : s.hoe.started = false) (hsde : s.sde.busy = false) (hrve : rveStep s = some t) : internal s = some t := by
  simp [internal, running, hrun, rxUnstall_eq_none.2 (.inl hst), hoeStep_eq_none.2 (.inr (.inl hhoe)),
    sdeStep_eq_none.2 (.inl hsde), hrve]

/-- The state after the receive-side engine has stored a byte. -/
def stored (d : Byte) (s : State) : State := (storeByte s.rve.waddr d s).setRve (s.rve.after 1)

theorem dataByte_byteBits (d : Byte) (n : Nat) : dataByte ⟨n, ofBits (byteBits d)⟩ = d := by
  rw [dataByte, ofBits_byteBits, BitVec.ofNat_toNat, BitVec.setWidth_eq]

/-- The clock edges of a data byte store it. -/
theorem clocked_byte (d : Byte) (h : Storing s) (hcount : 0 < s.rve.count) :
    Clocked (byteBits d) s (stored d s) (idles 8) ∧ Storing (stored d s) := by
  have hword := clocked_word (bits := byteBits d) h.listen (by rw [h.atData]; rfl)
    (rxFull_of_empty h.listen.sel.wf (by rw [h.atData]; rfl)) (by rw [h.atData]; rfl)
  have hbusy : s.rve.busy = true := by rw [h.busy]; simp; omega
  have hpop : popRx (s.setRx (s.rx.pushed (byteBits d))) = s := by
    rw [h.atData, popRx, State.setRx_setRx]
    exact (congrArg s.setRx h.atData.symm).trans (State.setRx_self s)
  have hfifo : (s.setRx (s.rx.pushed (byteBits d))).rx.fifo = [⟨8, ofBits (byteBits d)⟩] := by rw [h.atData]; rfl
  have hnext : rveNext ⟨8, ofBits (byteBits d)⟩ (s.setRx (s.rx.pushed (byteBits d))) = stored d s := by
    rw [rveNext, dataByte_byteBits, hpop]
    rfl
  have hrve : rveStep (s.setRx (s.rx.pushed (byteBits d))) = some (stored d s) :=
    rveStep_eq_some.2 ⟨_, [], hfifo, hbusy, hcount, hnext.symm⟩
  have hstep : internal (s.setRx (s.rx.pushed (byteBits d))) = some (stored d s) :=
    internal_of_rveStep h.listen.sel.run rfl h.noHandOff h.noSend hrve
  have hq : Quiescent (stored d s) := by
    refine quiescent_of_waiting ?_ (.inl ?_) ?_ ?_ ?_ ?_
    · simpa [stored] using h.listen.sel.run
    · simpa [stored] using h.awaiting
    · simp [stored, h.listen.sel.uncounted]
    · simp [stored, h.atData, Rx.atData]
    · simp [stored, h.atData, Rx.atData]
    · simpa [stored] using h.noSend
  rw [settle_of_internal hstep, settle_of_quiescent hq] at hword
  refine ⟨hword, ⟨h.listen.sel.of_clocked hword, ?_, ?_, ?_⟩, ?_, ?_, ?_, ?_, rfl⟩
  · simpa [stored] using h.listen.notStalled
  · simpa [stored] using h.listen.txEntry
  · simpa [stored] using h.listen.txEmpty
  · simpa [stored] using h.atData
  · simpa [stored] using h.awaiting
  · simpa [stored] using h.noHandOff
  · simpa [stored] using h.noSend

/-- The state after the receive-side engine has stored bytes: the array, its registers and the faults (R132). -/
def storedAll (data : List Byte) (s : State) : State :=
  ((s.setMem (storeAll s.cfg s.rve.waddr data s.mem)).setRve (s.rve.after data.length)).setFaults
    (faultsOfWrites s.cfg.memSize ((List.range data.length).map (s.rve.waddr + ·)) s.faults)

theorem storedAll_nil (h : Storing s) : storedAll [] s = s := by
  have hrve : s.rve.after 0 = s.rve := by rw [Rve.after, Nat.sub_zero, ← h.busy]; rfl
  rw [storedAll, List.length_nil, hrve]
  rfl

theorem storedAll_cons (d : Byte) (data : List Byte) (s : State) :
    storedAll (d :: data) s = storedAll data (stored d s) := by
  have hrve : s.rve.after (data.length + 1) = (s.rve.after 1).after data.length := by
    simp [Rve.after, Nat.add_assoc, Nat.add_comm 1, Nat.sub_sub]
  simp only [storedAll, stored, List.length_cons, offsets_succ, hrve, State.setRve_rve, State.setRve_cfg,
    State.setRve_mem, State.setRve_faults, storeByte_frame, storeByte_mem, storeByte_faults]
  rw [storeByte_eq]
  rfl

theorem clocked_bytes {data : List Byte} (h : Storing s) (hcount : data.length ≤ s.rve.count) :
    Clocked (bytesBits data) s (storedAll data s) (idles (8 * data.length)) ∧ Storing (storedAll data s) := by
  induction data generalizing s with
  | nil =>
    rw [storedAll_nil h]
    exact ⟨.nil s, h⟩
  | cons d data ih =>
    rw [List.length_cons] at hcount
    obtain ⟨hbyte, hnext⟩ := clocked_byte d h (by omega)
    obtain ⟨hrest, hlast⟩ := ih hnext (by simp [stored, Rve.after]; omega)
    rw [storedAll_cons, bytesBits_cons, List.length_cons, Nat.mul_succ, Nat.add_comm, ← idles_append]
    exact ⟨hbyte.append hrest, hlast⟩

/-- Trailing bits, and any bits once the engine's transfers are used up, store nothing. -/
theorem clocked_trail {trail : List Bool} (h : Storing s) (htrail : trail.length < 8 ∨ s.rve.count = 0) :
    ∃ r, Clocked trail s (s.setRx r) (idles trail.length) := by
  rcases htrail with hshort | hused
  · exact ⟨_, clocked_collect h.listen (by simpa [rxCnt, h.atData, Rx.atData, rxTarget] using hshort)⟩
  · exact clocked_deaf trail ⟨h.listen.sel, h.awaiting, h.noHandOff, h.noSend, by rw [h.busy, hused]; rfl,
      h.listen.txEntry, h.listen.txEmpty⟩

/-! ### The whole frame -/

/-- The machine once the dispatcher has started the receive-side engine (R117). -/
def writing (A : Nat) (s : State) : State :=
  ((armed .write s).setRx Rx.atData).setRve ⟨true, A, s.cfg.rveXferCount⟩ |>.setDisp ⟨.awaitDeselect, 0, some .write⟩

/-- The address word of a WRITE starts the receive-side engine. -/
theorem settle_addressed_write (A : Nat) (h : CleanControl s) : settle (addressed .write A s) = writing A s := by
  have hdis : Disengaged (addressed .write A s) := (disengaged_of_clean h :)
  have hdisp := dispStep_of_writeAddress (s := addressed .write A s) rfl Nat.two_pos rfl
  have hstep := (internal_of_disengaged (s := addressed .write A s) h.1 hdis rfl).trans hdisp
  rw [settle_of_internal hstep]
  obtain ⟨hrun, -, -, -, -, hsde, -⟩ := h
  exact settle_of_quiescent (quiescent_of_waiting (s := writing A s) hrun (.inl rfl) Nat.two_pos rfl rfl hsde)

theorem writing_clocked {A : Nat} (h : CleanControl s) (hwf : s.cfg.wf) (hA : A < 2 ^ s.cfg.addrBits.bits) :
    Clocked (byteBits 0x02 ++ toBits s.cfg.addrBits.bits A) (s.setCsn false) (writing A s) (idles (frameC s)) ∧
      Storing (writing A s) := by
  have hcommand := clocked_command 0x02 h hwf
  have hlisten := listening_armed 0x02 h hwf
  have hclass : classify s.cfg.addrBits (0x02 : Byte).toNat = .write := by rw [classify_byte]; rfl
  rw [hclass] at hcommand hlisten
  have haddress := clocked_address (A := A) hlisten hA
  rw [settle_addressed_write A h] at haddress
  have hall := hcommand.append haddress
  rw [idles_append] at hall
  have hsel := (Selected.of_clean h hwf).of_clocked hall
  obtain ⟨-, -, hcount⟩ := hwf
  obtain ⟨hhoe, hsde, -⟩ := disengaged_of_clean h
  have hbusy : (writing A s).rve.busy = decide ((writing A s).rve.count ≠ 0) :=
    (decide_eq_true (by omega : s.cfg.rveXferCount ≠ 0)).symm
  exact ⟨hall, ⟨hsel, rfl, hlisten.txEntry, hlisten.txEmpty⟩, rfl, rfl, hhoe, hsde, hbusy⟩

/-- Of a WRITE the stored bytes, the engine's registers and the faults remain. -/
theorem cleaned_storedAll (A : Nat) (data : List Byte) (r : Rx) (h : CleanControl s) :
    cleaned ((storedAll data (writing A s)).setRx r) =
      ((s.setMem (storeAll s.cfg A data s.mem)).setRve
          ⟨false, A + data.length, s.cfg.rveXferCount - data.length⟩).setFaults
        (faultsOfWrites s.cfg.memSize ((List.range data.length).map (A + ·)) s.faults) := by
  conv_rhs => rw [← cleaned_of_clean h]
  rw [cleaned_eq, cleaned_eq]
  rfl

/-- A WRITE that stores these bytes and then none: fewer than 8 bits trail them, or the engine's transfers are used
up (R132, D16). -/
theorem exec_write {A : Nat} {data : List Byte} {trail : List Bool} (h : CleanControl s) (hwf : s.cfg.wf)
    (hA : A < 2 ^ s.cfg.addrBits.bits) (hcount : data.length ≤ s.cfg.rveXferCount)
    (htrail : trail.length < 8 ∨ data.length = s.cfg.rveXferCount) :
    exec (.write (.full A data trail)) s =
      .next ((((s.setMem (storeAll s.cfg A data s.mem)).setRve
          ⟨false, A + data.length, s.cfg.rveXferCount - data.length⟩).setFaults
        (faultsOfWrites s.cfg.memSize ((List.range data.length).map (A + ·)) s.faults)).setTrace
          (s.trace ++ idles (frameC s + 8 * data.length + trail.length))) := by
  obtain ⟨haddress, hstoring⟩ := writing_clocked h hwf hA
  obtain ⟨hdata, hstored⟩ := clocked_bytes (data := data) hstoring hcount
  obtain ⟨r, hrest⟩ := clocked_trail (trail := trail) hstored
    (htrail.imp_right fun hused => by simp [storedAll, Rve.after, writing, hused])
  have hclocked := (haddress.append hdata).append hrest
  rw [idles_append, idles_append] at hclocked
  have hframe : encode s.cfg.addrBits (.write (.full A data trail)) =
      byteBits 0x02 ++ toBits s.cfg.addrBits.bits A ++ bytesBits data ++ trail := by
    simp [encode, Instr.cmdByte, Instr.body, encodeWriteArgs]
  rw [exec_eq_transact, hframe, transact_of_clocked h hwf hclocked (.inl rfl), cleaned_storedAll A data r h]

/-! ### The array afterwards -/

/-- Stored bytes inside the array read back, and every other offset reads as before (R47, R132). -/
theorem memRead_storeAll (c : Config) (A : Nat) (data : List Byte) (m : Memory) (a : Nat) :
    memRead c.preserve (storeAll c A data m) a =
      if A ≤ a ∧ a < c.memSize then data[a - A]?.getD (memRead c.preserve m a) else memRead c.preserve m a := by
  induction data generalizing A m with
  | nil => rw [storeAll, List.getElem?_nil, Option.getD_none, ite_self]
  | cons d data ih =>
    rw [storeAll, ih]
    have hother : a ≠ A →
        memRead c.preserve (if A < c.memSize then memWrite c.preserve m A d else m) a = memRead c.preserve m a :=
      fun ha => by split <;> [exact memRead_memWrite_other _ _ _ ha; rfl]
    rcases lt_trichotomy a A with hlt | rfl | hgt
    · rw [hother hlt.ne, if_neg (by omega), if_neg (by omega)]
    · by_cases hin : a < c.memSize <;> simp [hin]
    · have hsub : a - A = a - (A + 1) + 1 := by omega
      have hle : A + 1 ≤ a ↔ A ≤ a := by omega
      simp only [hother hgt.ne', hsub, List.getElem?_cons_succ, hle]

/-- Settles O13: the frame's bits are the command byte, the address, the bytes and the trailing bits. -/
theorem writeTransaction : Obligations.WriteTransaction := by
  intro s A data trail h hwf hA htrail hcount
  refine ⟨storeAll s.cfg A data s.mem, fun k hk hin => ?_, fun a ha => ?_, exec_write h hwf hA hcount (.inl htrail)⟩
  · simp [memRead_storeAll, hin, hk]
  · rw [memRead_storeAll, readMem]
    split
    case isTrue hin => rw [List.getElem?_eq_none (by omega), Option.getD_none]
    case isFalse => rfl

end Sys2Proof.Machine
end

section
/-!
The bits of a data phase (`44_commands.md` R130, R134 (d)): what the loaded bytes put on the wire.
-/
namespace Sys2Proof

theorem toBits_getElem? {n j : Nat} (v : Nat) (hj : j < n) : (toBits n v)[j]? = some (v.testBit (n - 1 - j)) := by
  induction n generalizing j with
  | zero => omega
  | succ n ih =>
    cases j with
    | zero => rfl
    | succ j =>
      rw [toBits, List.getElem?_cons_succ, ih (by omega)]
      congr 2
      omega

/-- Bit `j` of bytes on the wire is bit `7 - j mod 8` of byte `j div 8` (R44). -/
theorem bytesBits_getElem? (bs : List Byte) (j : Nat) :
    (bytesBits bs)[j]? = bs[j / 8]?.map fun b => b.getLsbD (7 - j % 8) := by
  induction bs generalizing j with
  | nil => simp [bytesBits]
  | cons b bs ih =>
    have hlen : (byteBits b).length = 8 := rfl
    rw [bytesBits_cons]
    rcases Nat.lt_or_ge j 8 with hlt | hge
    · rw [List.getElem?_append_left (by omega), Nat.div_eq_of_lt hlt, Nat.mod_eq_of_lt hlt, byteBits,
        toBits_getElem? _ hlt]
      rfl
    · obtain ⟨i, rfl⟩ : ∃ i, j = i + 8 := ⟨j - 8, by omega⟩
      rw [List.getElem?_append_right (by omega), hlen, Nat.add_sub_cancel, ih, Nat.add_div_right _ (by decide),
        Nat.add_mod_right, List.getElem?_cons_succ]

end Sys2Proof

namespace Sys2Proof.Machine

/-- A data phase that sends the first bits of these bytes, and `IDLE` after the last bit of the last transfer. -/
theorem dataStream_eq {R : Nat → Byte} {limit m : Nat} {L : List Byte} {sent pending : List Bool}
    (hR : ∀ k (h : k < L.length), R k = L[k]) (hbits : bytesBits L = sent ++ pending) (hlimit : L.length ≤ limit)
    (hdry : m ≠ 0 → pending = [] ∧ L.length = limit) :
    dataStream R limit (sent.length + m) = driven sent ++ idles m := by
  have hlen : 8 * L.length = sent.length + pending.length := by rw [← bytesBits_length, hbits, List.length_append]
  have hdata : ∀ j (h : j < sent.length), dataBit R limit j = .bit sent[j] := fun j h => by
    have hbyte : j / 8 < L.length := by omega
    have hbit := bytesBits_getElem? L j
    rw [hbits, List.getElem?_append_left h, List.getElem?_eq_getElem h, List.getElem?_eq_getElem hbyte,
      Option.map_some, Option.some.injEq] at hbit
    rw [dataBit, if_pos (by omega), hR _ hbyte, hbit]
  have hidle : ∀ j < m, dataBit R limit (sent.length + j) = .idle := fun j hj => by
    obtain ⟨hpending, hall⟩ := hdry (by omega)
    rw [hpending, List.length_nil] at hlen
    exact if_neg (by omega)
  rw [dataStream, List.range_add, List.map_append]
  congr 1
  · refine List.ext_getElem (by simp [driven]) fun j h _ => ?_
    simp only [List.length_map, List.length_range] at h
    simp [driven, hdata j h]
  · refine List.ext_getElem (by simp [idles]) fun j h _ => ?_
    simp only [List.length_map, List.length_range] at h
    simp [idles, hidle j h]

/-- A data phase of whole bytes inside the limit drives those bytes. -/
theorem dataStream_of_bytes {R : Nat → Byte} {limit : Nat} {data : List Byte}
    (hR : ∀ k (h : k < data.length), R k = data[k]) (hlimit : data.length ≤ limit) :
    dataStream R limit (8 * data.length) = driven (bytesBits data) := by
  have h := dataStream_eq (m := 0) (sent := bytesBits data) (pending := []) hR (by simp) hlimit (by simp)
  rwa [bytesBits_length, Nat.add_zero, idles, List.replicate_zero, List.append_nil] at h

end Sys2Proof.Machine
end

section
/-!
The outbound path at a clock edge, by the bits that are still to be sent (`41_write_pipeline.md` R91).
-/
namespace Sys2Proof.Machine

variable {s : State}

/-- The bits queued to be sent, in the order they leave. -/
def pendingBits (s : State) : List Bool := s.tx.osr ++ s.tx.fifo.flatMap unitBits

/-- Every queued unit has the bits of one pull (R92). -/
def Sized (s : State) : Prop := ∀ e ∈ s.tx.fifo, 8 * e.length = s.tx.pull.bits

theorem unitBits_of_sized {e : List Byte} {es : List (List Byte)} (hsized : Sized s) (hfifo : s.tx.fifo = e :: es) :
    ∃ b bits, unitBits e = b :: bits := by
  refine List.exists_cons_of_length_pos ?_
  rw [unitBits, bytesBits_length, hsized e (by simp [hfifo])]
  cases s.tx.pull <;> decide

/-- With no bit to send there is no unit queued: none is empty. -/
theorem empty_of_no_pendingBits (hsized : Sized s) (hp : pendingBits s = []) : s.tx.osr = [] ∧ s.tx.fifo = [] := by
  obtain ⟨hosr, hunits⟩ := List.append_eq_nil_iff.1 hp
  refine ⟨hosr, ?_⟩
  cases hfifo : s.tx.fifo with
  | nil => rfl
  | cons e es =>
    obtain ⟨b, bits, hbits⟩ := unitBits_of_sized hsized hfifo
    simp [hfifo, hbits] at hunits

/-- `TXSM` sends data bits, or will from the edge that finds the first unit. -/
def Shifting (s : State) : Prop :=
  s.tx.ip = .shift ∨ s.tx.ip = .entry ∧ s.tx.jump = .normal ∧ s.tx.osr = []

/-- With no bit to send the edge returns `IDLE` and changes nothing. -/
theorem txClock_of_no_pendingBits (hsized : Sized s) (hshift : Shifting s) (hp : pendingBits s = []) :
    txClock s = .ok (.idle, s) := by
  obtain ⟨hosr, hfifo⟩ := empty_of_no_pendingBits hsized hp
  rcases hshift with hip | ⟨hip, -⟩
  · rw [txClock, hip]
    exact txNext_of_dry hosr hfifo
  · exact txClock_of_nothing hip hfifo

/-- In `TX_SHIFT` the edge sends the first pending bit. -/
theorem txClock_of_shift {b : Bool} {bits : List Bool} (hsized : Sized s) (hip : s.tx.ip = .shift)
    (hp : pendingBits s = b :: bits) :
    ∃ x, txClock s = .ok (.bit b, s.setTx x) ∧ pendingBits (s.setTx x) = bits ∧ x.ip = .shift := by
  rw [txClock, hip]
  cases hosr : s.tx.osr with
  | cons c cs =>
    rw [pendingBits, hosr, List.cons_append, List.cons.injEq] at hp
    obtain ⟨rfl, hp⟩ := hp
    exact ⟨_, txNext_of_bits hosr, hp, hip⟩
  | nil =>
    cases hfifo : s.tx.fifo with
    | nil => simp [pendingBits, hosr, hfifo] at hp
    | cons e es =>
      obtain ⟨c, cs, hcs⟩ := unitBits_of_sized hsized hfifo
      rw [pendingBits, hosr, hfifo, List.nil_append, List.flatMap_cons, hcs, List.cons_append, List.cons.injEq] at hp
      obtain ⟨rfl, hp⟩ := hp
      refine ⟨{ s.tx with fifo := es, osr := cs }, ?_, hp, hip⟩
      dsimp only
      rw [txNext_of_pull hosr hfifo (hsized e (by simp [hfifo])), hcs]
      rfl

/-- The edge sends the first pending bit, also where it is the one that finds the first unit. -/
theorem txClock_of_pendingBits {b : Bool} {bits : List Bool} (hsized : Sized s) (hshift : Shifting s)
    (hp : pendingBits s = b :: bits) :
    ∃ x, txClock s = .ok (.bit b, s.setTx x) ∧ pendingBits (s.setTx x) = bits ∧ x.ip = .shift := by
  rcases hshift with hip | ⟨hip, hjump, hosr⟩
  · exact txClock_of_shift hsized hip hp
  · cases hfifo : s.tx.fifo with
    | nil => simp [pendingBits, hosr, hfifo] at hp
    | cons e es =>
      rw [txClock_entry_normal hip hjump hfifo (hsized e (by simp [hfifo]))]
      refine txClock_of_shift (s := s.setTx { s.tx with ip := .shift, fifo := es, osr := unitBits e })
        (fun f hf => hsized f (by rw [hfifo]; exact List.mem_cons_of_mem _ hf)) rfl ?_
      rw [← hp, pendingBits, pendingBits, hosr, hfifo]
      rfl

/-- So many dummy edges are still to pass before the data bits; all eight where the fast slot waits for its first
unit. -/
def DummyLeft : Nat → State → Prop
  | 0, s => Shifting s
  | n + 1, s => s.tx.ip = .dummy ∧ s.tx.dly = n + 1 ∨ n + 1 = 8 ∧ s.tx.ip = .entry ∧ s.tx.jump = .fast ∧ s.tx.osr = []

/-- In `TX_DUMMY` an edge counts down and sends no pending bit. -/
theorem txClock_of_dummy {n : Nat} (hip : s.tx.ip = .dummy) (hdly : s.tx.dly = n + 1) :
    ∃ o x, txClock s = .ok (o, (s.setTx x).setDraws (s.draws + 1)) ∧ pendingBits (s.setTx x) = pendingBits s ∧
      DummyLeft n (s.setTx x) := by
  refine ⟨Config.freeSo s.draws, { s.tx with dly := n, ip := if n = 0 then .shift else .dummy }, ?_, rfl, ?_⟩
  · rw [txClock, hip]
    dsimp only
    rw [txDummy, hdly]
    rfl
  · cases n with
    | zero => exact .inl rfl
    | succ n => exact .inl ⟨rfl, rfl⟩

/-- A dummy edge, also where it is the one that finds the first unit. -/
theorem txClock_of_dummyLeft {n : Nat} (hsized : Sized s) (hleft : DummyLeft (n + 1) s) (hp : pendingBits s ≠ []) :
    ∃ o x, txClock s = .ok (o, (s.setTx x).setDraws (s.draws + 1)) ∧ pendingBits (s.setTx x) = pendingBits s ∧
      DummyLeft n (s.setTx x) := by
  rcases hleft with ⟨hip, hdly⟩ | ⟨hn, hip, hjump, hosr⟩
  · exact txClock_of_dummy hip hdly
  · cases hfifo : s.tx.fifo with
    | nil => simp [pendingBits, hosr, hfifo] at hp
    | cons e es =>
      obtain ⟨o, x, hclock, hbits, hleft⟩ := txClock_of_dummy
        (s := s.setTx { s.tx with ip := .dummy, dly := 8, fifo := es, osr := unitBits e }) (n := n) rfl hn.symm
      rw [txClock_entry_fast hip hjump hfifo (hsized e (by simp [hfifo]))]
      refine ⟨o, x, hclock, hbits.trans ?_, hleft⟩
      rw [pendingBits, pendingBits, hosr, hfifo]
      rfl

end Sys2Proof.Machine
end

section
/-!
READ and FAST_READ (`44_commands.md` R130, R131): from the address on the send-side engine loads units in ascending
order while there is room for them, and `TXSM` sends them bit by bit.
-/
namespace Sys2Proof.Machine

variable {s t u : State} {A n m : Nat} {unit : SdeUnit} {sent : List Bool} {L : List Byte} {outs : List Output}

/-! ### Only the send-side engine can step -/

/-- A machine that awaits the deselect with the address handed off, no store to make and no word to push. -/
structure SendOnly (s : State) : Prop where
  run : s.sys.phase = .running
  awaiting : s.disp.state = .awaitDeselect
  uncounted : s.disp.hi = 0
  handedOff : s.hoe.started = false
  noStore : s.rve.busy = false
  noPush : s.rx.stalled = false ∨ rxFull s = true

theorem SendOnly.internal_eq (h : SendOnly s) : internal s = sdeStep s := by
  have hdisp : dispStep s = none := dispStep_of_awaiting h.awaiting (by simp [h.uncounted])
  simp [internal, running, h.run, rxUnstall_eq_none.2 h.noPush, hoeStep_eq_none.2 (.inr (.inl h.handedOff)),
    rveStep_eq_none.2 (.inr (.inl h.noStore)), hdisp]

/-- What is on its way from the array to the wire: of the bytes `L` loaded from `A` on, the bits `sent` have been sent,
and the master has then sampled `m` times `IDLE` because every transfer was made. -/
structure Streaming (s : State) (A : Nat) (unit : SdeUnit) (L : List Byte) (sent : List Bool) (m : Nat) (t : State) :
    Prop where
  storage : t.cfg = s.cfg ∧ t.sys = s.sys ∧ t.rve = s.rve ∧ t.mem = s.mem ∧ t.faults = s.faults ∧ t.inbox = s.inbox
  unit_eq : t.sde.unit = unit
  pointer : t.sde.raddr = A + L.length
  transfers : L.length + unit.bytes * t.sde.count = unit.bytes * readXferCount
  busy : t.sde.busy = decide (t.sde.count ≠ 0)
  loaded : ∀ k (h : k < L.length), A + k < s.cfg.memSize → L[k] = readMem s (A + k)
  bits : bytesBits L = sent ++ pendingBits t
  dry : m ≠ 0 → pendingBits t = [] ∧ t.sde.count = 0

/-- The outbound path moves on without the engine. -/
theorem Streaming.of_tx {sent' : List Bool} {m' : Nat} (h : Streaming s A unit L sent m t)
    (hframe : u = ((t.setRx u.rx).setTx u.tx).setDraws u.draws)
    (hbits : sent ++ pendingBits t = sent' ++ pendingBits u)
    (hdry : m' ≠ 0 → pendingBits u = [] ∧ t.sde.count = 0) : Streaming s A unit L sent' m' u := by
  have hsde : u.sde = t.sde := by rw [hframe]; rfl
  refine ⟨?_, ?_, ?_, ?_, ?_, h.loaded, h.bits.trans hbits, ?_⟩
  · rw [hframe]; exact h.storage
  · rw [hsde]; exact h.unit_eq
  · rw [hsde]; exact h.pointer
  · rw [hsde]; exact h.transfers
  · rw [hsde]; exact h.busy
  · rw [hsde]; exact hdry

/-- One transfer of the send-side engine, all that it changes. -/
theorem sdeNext_eq (s : State) :
    sdeNext s = ((s.setTx { s.tx with fifo := s.tx.fifo ++ [(loadBytes s.sde.unit.bytes s.sde.raddr s).1] }).setSde
      ⟨decide (s.sde.count - 1 ≠ 0), s.sde.raddr + s.sde.unit.bytes, s.sde.count - 1, s.sde.unit⟩).setDraws
        (s.draws + (s.sde.unit.bytes - (s.cfg.memSize - s.sde.raddr))) := by
  rw [sdeNext, loadBytes_state]
  rfl

theorem pendingBits_sdeNext (s : State) :
    pendingBits (sdeNext s) = pendingBits s ++ unitBits (loadBytes s.sde.unit.bytes s.sde.raddr s).1 := by
  simp [sdeNext_eq, pendingBits]

theorem bytesBits_append (L L' : List Byte) : bytesBits (L ++ L') = bytesBits L ++ bytesBits L' :=
  List.flatMap_append

/-- A transfer appends a unit to what is loaded (R93). -/
theorem Streaming.sdeNext (h : Streaming s A unit L sent m t) (hcount : 0 < t.sde.count) :
    Streaming s A unit (L ++ (loadBytes unit.bytes t.sde.raddr t).1) sent m (sdeNext t) := by
  obtain ⟨hcfg, -, -, hmem, -⟩ := h.storage
  have hm : m = 0 := by
    by_contra hm
    have := (h.dry hm).2
    omega
  have hread : ∀ a, readMem t a = readMem s a := fun a => by rw [readMem, readMem, hcfg, hmem]
  have hpending := pendingBits_sdeNext t
  have hmul : unit.bytes * t.sde.count = unit.bytes * (t.sde.count - 1) + unit.bytes := by
    rw [← Nat.mul_succ, Nat.succ_eq_add_one, Nat.sub_add_cancel hcount]
  have htransfers := h.transfers
  have hpointer := h.pointer
  rw [h.unit_eq] at hpending
  refine ⟨?_, ?_, ?_, ?_, ?_, fun k hk ha => ?_, ?_, fun hne => absurd hm hne⟩
  · rw [sdeNext_eq]; exact h.storage
  · rw [sdeNext_eq]; exact h.unit_eq
  · rw [sdeNext_eq]
    simp [h.unit_eq, hpointer, Nat.add_assoc]
  · rw [sdeNext_eq]
    simp
    omega
  · rw [sdeNext_eq]
    simp
  · rcases Nat.lt_or_ge k L.length with hold | hnew
    · rw [List.getElem_append_left hold]
      exact h.loaded k hold ha
    · rw [List.length_append, loadBytes_length] at hk
      have hbyte := loadBytes_getElem t unit.bytes t.sde.raddr (k - L.length) (by omega)
        (by rw [hcfg, hpointer]; omega)
      rw [List.getElem?_eq_getElem (by rw [loadBytes_length]; omega), Option.some.injEq] at hbyte
      rw [List.getElem_append_right hnew, hbyte, hread, hpointer]
      congr 1
      omega
  · rw [bytesBits_append, h.bits, hpending, List.append_assoc]
    rfl

/-! ### Settling -/

theorem SendOnly.sdeNext (h : SendOnly s) : SendOnly (sdeNext s) := by
  rw [sdeNext_eq]
  exact ⟨h.run, h.awaiting, h.uncounted, h.handedOff, h.noStore, h.noPush⟩

theorem SendOnly.setTx (h : SendOnly s) (x : Tx) (d : Nat) : SendOnly ((s.setTx x).setDraws d) :=
  ⟨h.run, h.awaiting, h.uncounted, h.handedOff, h.noStore, h.noPush⟩

theorem DummyLeft.sdeNext (h : DummyLeft n s) : DummyLeft n (sdeNext s) := by
  rw [sdeNext_eq]
  cases n <;> exact h

/-- The outbound path is where so many dummy edges are left; the bytes loaded so far account for the data outputs. -/
def Serves (s : State) (A : Nat) (unit : SdeUnit) (outs : List Output) (n : Nat) (t : State) : Prop :=
  SendOnly t ∧ DummyLeft n t ∧ ∃ L sent m, Streaming s A unit L sent m t ∧ outs = driven sent ++ idles m

/-- The internal steps fill the transmit queue. -/
theorem Serves.settle (h : Serves s A unit outs n t) : Serves s A unit outs n (settle t) := by
  refine settle_induction (P := Serves s A unit outs n) (fun v w hv hw => ?_) h
  obtain ⟨honly, hleft, L, sent, m, hstream, houts⟩ := hv
  rw [honly.internal_eq] at hw
  obtain ⟨-, hcount, -, rfl⟩ := sdeStep_eq_some.1 hw
  exact ⟨honly.sdeNext, hleft.sdeNext, _, sent, m, hstream.sdeNext hcount, houts⟩

/-- Nothing is left to send between events only when every transfer was made (R93). -/
theorem Streaming.count_zero (h : Streaming s A unit L sent m t) (hsel : Selected t) (hp : pendingBits t = []) :
    t.sde.count = 0 := by
  obtain ⟨-, -, -, ⟨hsized, -⟩, -⟩ := hsel.inv
  obtain ⟨-, hfifo⟩ := empty_of_no_pendingBits hsized hp
  obtain ⟨-, hdepth, -⟩ := hsel.wf
  obtain ⟨-, -, hsde, -⟩ := (quiescent_iff hsel.run).1 hsel.quiet
  rcases sdeStep_eq_none.1 hsde with hidle | hzero | hfull
  · simpa [h.busy] using hidle
  · exact hzero
  · simp [txFull, hfifo] at hfull
    omega

/-- Before the first bit is sent something is pending once every transfer was made. -/
theorem Streaming.pendingBits_of_unsent (h : Streaming s A unit L sent m t) (hsent : sent = [])
    (hcount : t.sde.count = 0) : pendingBits t ≠ [] := fun hp => by
  have hbits := congrArg List.length h.bits
  have htransfers := h.transfers
  rw [hsent, hp, List.append_nil, List.length_nil, bytesBits_length] at hbits
  rw [hcount, readXferCount] at htransfers
  cases unit <;> simp [SdeUnit.bytes] at htransfers <;> omega

/-! ### Clock edges -/

/-- What a clock edge does once `TXSM` has answered. -/
theorem Serves.of_txClock {s0 : State} {outs' : List Output} {n' : Nat} {x : Tx} {d : Nat} {o : So} (b : Bool)
    (hsel : Selected t) (htx : txClock t = .ok (o, (t.setTx x).setDraws d))
    (h : Serves s0 A unit outs' n' ((t.setTx x).setDraws d)) :
    ∃ v, Clocked [b] t v [.so o] ∧ Selected v ∧ Serves s0 A unit outs' n' v := by
  have hedge := clocked_of_txClock (b := b) hsel htx
  refine ⟨_, hedge, hsel.of_clocked hedge, Serves.settle ?_⟩
  obtain ⟨honly, hleft, L, sent, m, hstream, houts⟩ := h
  have hrx := rxEdge_only_rx b ((t.setTx x).setDraws d)
  have hpush := rxUnstall_eq_none.1 (rxUnstall_rxEdge b (rxUnstall_eq_none.2 honly.noPush))
  rw [hrx] at hpush ⊢
  refine ⟨⟨honly.run, honly.awaiting, honly.uncounted, honly.handedOff, honly.noStore, hpush⟩, ?_, L, sent, m,
    hstream.of_tx rfl rfl hstream.dry, houts⟩
  cases n' <;> exact hleft

theorem sized_of_selected (h : Selected s) : Sized s := by
  obtain ⟨-, -, -, ⟨hsized, -⟩, -⟩ := h.inv
  exact hsized

theorem driven_snoc (sent : List Bool) (b : Bool) : driven (sent ++ [b]) = driven sent ++ [.so (.bit b)] := by
  simp [driven]

theorem idles_snoc (m : Nat) : idles (m + 1) = idles m ++ [.so .idle] := (idles_append m 1).symm

/-- An edge of the data phase sends the next loaded bit, or `IDLE` once every transfer was made and sent. -/
theorem clocked_data_edge (b : Bool) (hsel : Selected t) (h : Serves s A unit outs 0 t) :
    ∃ v o, Clocked [b] t v [.so o] ∧ Selected v ∧ Serves s A unit (outs ++ [.so o]) 0 v := by
  obtain ⟨honly, hshift, L, sent, m, hstream, rfl⟩ := h
  have hsized := sized_of_selected hsel
  cases hp : pendingBits t with
  | nil =>
    have hcount := hstream.count_zero hsel hp
    have hserves : Serves s A unit (driven sent ++ idles m ++ [.so .idle]) 0 ((t.setTx t.tx).setDraws t.draws) :=
      ⟨honly, hshift, L, sent, m + 1, hstream.of_tx rfl rfl fun _ => ⟨hp, hcount⟩,
        by rw [idles_snoc, List.append_assoc]⟩
    obtain ⟨v, hclocked⟩ := hserves.of_txClock b hsel (txClock_of_no_pendingBits hsized hshift hp)
    exact ⟨v, _, hclocked⟩
  | cons c bits =>
    have hm : m = 0 := by
      by_contra hm
      simp [(hstream.dry hm).1] at hp
    obtain ⟨x, htx, hbits, hip⟩ := txClock_of_pendingBits hsized hshift hp
    have hserves : Serves s A unit (driven sent ++ idles m ++ [.so (.bit c)]) 0 ((t.setTx x).setDraws t.draws) := by
      refine ⟨honly.setTx _ _, .inl hip, L, sent ++ [c], 0, hstream.of_tx rfl ?_ (by simp), by simp [hm, driven_snoc, idles]⟩
      rw [hp, ← hbits, List.append_assoc]
      rfl
    obtain ⟨v, hclocked⟩ := hserves.of_txClock b hsel htx
    exact ⟨v, _, hclocked⟩

/-- The data phase. -/
theorem clocked_data (bits : List Bool) (hsel : Selected t) (h : Serves s A unit outs 0 t) :
    ∃ v outs', Clocked bits t v outs' ∧ outs'.length = bits.length ∧ Serves s A unit (outs ++ outs') 0 v := by
  induction bits generalizing t outs with
  | nil => exact ⟨t, [], .nil t, rfl, by rwa [List.append_nil]⟩
  | cons b bits ih =>
    obtain ⟨v, o, hedge, hsel', h'⟩ := clocked_data_edge b hsel h
    obtain ⟨w, outs', hrest, hlen, h''⟩ := ih hsel' h'
    exact ⟨w, _, hedge.append hrest, by simp [hlen], by rwa [← List.append_assoc]⟩

/-- A dummy edge returns a free value and sends no bit of the data. -/
theorem clocked_dummy_edge (b : Bool) (hsel : Selected t) (h : Serves s A unit [] (n + 1) t) :
    ∃ v o, Clocked [b] t v [.so o] ∧ Selected v ∧ Serves s A unit [] n v := by
  obtain ⟨honly, hleft, L, sent, m, hstream, houts⟩ := h
  obtain ⟨hsent, -⟩ : driven sent = [] ∧ idles m = [] := List.append_eq_nil_iff.1 houts.symm
  have hpending : pendingBits t ≠ [] := fun hp => hstream.pendingBits_of_unsent (List.map_eq_nil_iff.1 hsent)
    (hstream.count_zero hsel hp) hp
  obtain ⟨o, x, htx, hbits, hleft'⟩ := txClock_of_dummyLeft (sized_of_selected hsel) hleft hpending
  have hserves : Serves s A unit [] n ((t.setTx x).setDraws (t.draws + 1)) := by
    refine ⟨honly.setTx _ _, ?_, L, sent, m,
      hstream.of_tx rfl ?_ ?_, houts⟩
    · cases n <;> exact hleft'
    · exact congrArg (sent ++ ·) hbits.symm
    · exact fun hm => absurd (hstream.dry hm).1 hpending
  obtain ⟨v, hclocked⟩ := hserves.of_txClock b hsel htx
  exact ⟨v, _, hclocked⟩

/-- The dummy phase, or the part of it that is clocked. -/
theorem clocked_dummies (bits : List Bool) (hsel : Selected t) (h : Serves s A unit [] n t) (hlen : bits.length ≤ n) :
    ∃ (v : State) (dummy : List So), Clocked bits t v (dummy.map .so) ∧ dummy.length = bits.length ∧
      Serves s A unit [] (n - bits.length) v := by
  induction bits generalizing t n with
  | nil => exact ⟨t, [], .nil t, rfl, h⟩
  | cons b bits ih =>
    obtain ⟨k, rfl⟩ : ∃ k, n = k + 1 := ⟨n - 1, by simp at hlen; omega⟩
    rw [List.length_cons] at hlen
    obtain ⟨v, o, hedge, hsel', h'⟩ := clocked_dummy_edge b hsel h
    obtain ⟨w, dummy, hrest, hdummy, h''⟩ := ih hsel' h' (by omega)
    refine ⟨w, o :: dummy, hedge.append hrest, by simp [hdummy], ?_⟩
    rwa [List.length_cons, Nat.add_sub_add_right]

/-! ### What was sent, and what remains -/

/-- The data outputs are those of the bytes the engine loaded, the array's inside it. -/
theorem Serves.dataStream_eq (h : Serves s A unit outs n t) :
    ∃ R, ReadsArray s A R ∧ outs = dataStream R (unit.bytes * readXferCount) outs.length := by
  obtain ⟨-, -, L, sent, m, hstream, rfl⟩ := h
  have htransfers := hstream.transfers
  refine ⟨fun k => L[k]?.getD (readMem s (A + k)), fun k hk => ?_, ?_⟩
  · rcases Nat.lt_or_ge k L.length with hlt | hge
    · simpa [hlt] using hstream.loaded k hlt hk
    · simp [hge]
  · have hdata := Machine.dataStream_eq (R := fun k => L[k]?.getD (readMem s (A + k)))
      (limit := unit.bytes * readXferCount) (m := m) (fun k hk => by simp [hk]) hstream.bits (by omega) fun hm => by
        obtain ⟨hp, hcount⟩ := hstream.dry hm
        rw [hcount] at htransfers
        exact ⟨hp, by omega⟩
    rw [← hdata]
    simp [dataStream]

/-- Of a READ or FAST_READ the send-side engine's pointer and count and the draw counter remain. -/
theorem Serves.cleaned_setTrace (h : Serves s A unit outs n t) (hclean : CleanControl s) (tr : List Output) :
    (cleaned t).setTrace tr =
      ((s.setSde ⟨false, t.sde.raddr, t.sde.count, .w32Bswap⟩).setDraws t.draws).setTrace tr := by
  obtain ⟨-, -, L, sent, m, ⟨⟨hcfg, hsys, hrve, hmem, hfaults, hinbox⟩, -⟩, -⟩ := h
  conv_rhs => rw [← cleaned_of_clean hclean]
  rw [cleaned_eq, cleaned_eq, hcfg, hsys, hrve, hmem, hfaults, hinbox]
  rfl

/-! ### From the address to the data phase -/

/-- The machine once the send-side engine was started on the address, before its first transfer. -/
def sending (c : Cmd) (A : Nat) (s : State) : State :=
  ((((armed c s).setRx Rx.atData).setHoe ⟨false⟩).setSde ⟨true, A, readXferCount, (armed c s).sde.unit⟩).setDisp
    ⟨.awaitDeselect, 0, some c⟩

/-- The hand-off engine takes the address of a READ (R101). -/
theorem settle_addressed_read (A : Nat) (h : CleanControl s) :
    settle (addressed .read A s) = settle (sending .read A s) := by
  have hunstall : rxUnstall (addressed .read A s) = none := rxUnstall_eq_none.2 (.inl rfl)
  have hhoe : hoeStep (addressed .read A s) = some (sending .read A s) :=
    hoeStep_eq_some.2 ⟨_, [], rfl, rfl, rfl, rfl⟩
  have hrun : running (addressed .read A s) = true := decide_eq_true h.1
  exact settle_of_internal (by simp [internal, hrun, hunstall, hhoe])

/-- The dispatcher takes the address of a FAST_READ (R116). -/
theorem settle_addressed_fastRead (A : Nat) (h : CleanControl s) :
    settle (addressed .fastRead A s) = settle (sending .fastRead A s) := by
  have hdis : Disengaged (addressed .fastRead A s) := (disengaged_of_clean h :)
  have hdisp := dispStep_of_fastReadAddress (s := addressed .fastRead A s) rfl rfl Nat.two_pos rfl
  have hstep := (internal_of_disengaged (s := addressed .fastRead A s) h.1 hdis rfl).trans hdisp
  obtain ⟨hhoe, -⟩ := hdis
  have hsame : sending .fastRead A s = (gotoDisp .awaitDeselect (triggerSde A (popRx (addressed .fastRead A s)))).setHoe
      ⟨(addressed .fastRead A s).hoe.started⟩ := by rw [hhoe]; rfl
  rw [settle_of_internal hstep, hsame]
  rfl

/-- The started engine has loaded nothing yet. -/
theorem serves_sending {c : Cmd} (h : CleanControl s) (hunit : (armed c s).sde.unit = unit)
    (hleft : DummyLeft n (sending c A s)) : Serves s A unit [] n (sending c A s) := by
  obtain ⟨hcfg, hsys, -⟩ := armed_frame c s
  have hstorage : (armed c s).rve = s.rve ∧ (armed c s).mem = s.mem ∧ (armed c s).faults = s.faults ∧
      (armed c s).inbox = s.inbox ∧ (armed c s).tx.osr = s.tx.osr ∧ (armed c s).tx.fifo = s.tx.fifo := by
    cases c <;> exact ⟨rfl, rfl, rfl, rfl, rfl, rfl⟩
  obtain ⟨hrve, hmem, hfaults, hinbox, hosr, hfifo⟩ := hstorage
  obtain ⟨-, -, hidle, -, -, -, hosr', hfifo'⟩ := disengaged_of_clean h
  refine ⟨⟨?_, rfl, rfl, rfl, ?_, .inl rfl⟩, hleft, [], [], 0,
    ⟨⟨hcfg, hsys, hrve, hmem, hfaults, hinbox⟩, hunit, rfl, ?_, rfl, nofun, ?_, nofun⟩, rfl⟩
  · exact (congrArg Sys.phase hsys).trans h.1
  · exact (congrArg Rve.busy hrve).trans hidle
  · exact Nat.zero_add _
  · have hpending : pendingBits (sending c A s) = [] := by
      rw [pendingBits]
      simp [sending, hosr, hosr', hfifo, hfifo']
    rw [hpending]
    rfl

/-- The clock edges of the command byte and the address start the send-side engine, which fills the queue. -/
theorem serving_clocked {c : Cmd} {b : Byte} (h : CleanControl s) (hwf : s.cfg.wf)
    (hA : A < 2 ^ s.cfg.addrBits.bits) (hclass : classify s.cfg.addrBits b.toNat = c)
    (hsettle : settle (addressed c A s) = settle (sending c A s)) (hunit : (armed c s).sde.unit = unit)
    (hleft : DummyLeft n (sending c A s)) :
    ∃ t, Clocked (byteBits b ++ toBits s.cfg.addrBits.bits A) (s.setCsn false) t (idles (frameC s)) ∧ Selected t ∧
      Serves s A unit [] n t := by
  have hcommand := clocked_command b h hwf
  have hlisten := listening_armed b h hwf
  rw [hclass] at hcommand hlisten
  have haddress := clocked_address (A := A) hlisten hA
  rw [hsettle] at haddress
  have hall := hcommand.append haddress
  rw [idles_append] at hall
  exact ⟨_, hall, (Selected.of_clean h hwf).of_clocked hall, (serves_sending h hunit hleft).settle⟩

/-- The deselect leaves what was sent, and the send-side engine's pointer and count. -/
theorem transact_of_serves {bits : List Bool} {outs' : List Output} (h : CleanControl s) (hwf : s.cfg.wf)
    (hclocked : Clocked bits (s.setCsn false) t outs') (hserves : Serves s A unit outs n t) :
    ∃ (e : Sde) (d : Nat), e.busy = false ∧ e.unit = .w32Bswap ∧
      transact bits s = .next (((s.setSde e).setDraws d).setTrace (s.trace ++ outs')) := by
  have honly : SendOnly t := hserves.1
  have hend := transact_of_clocked h hwf hclocked (.inl honly.awaiting)
  rw [hserves.cleaned_setTrace h] at hend
  exact ⟨_, _, rfl, rfl, hend⟩

/-! ### The two commands -/

theorem encode_read (w : AddrBits) (A : Nat) (clocks : List Bool) :
    encode w (.read (.full A clocks)) = byteBits 0x03 ++ toBits w.bits A ++ clocks := (List.append_assoc ..).symm

theorem encode_fastRead (w : AddrBits) (A : Nat) (clocks : List Bool) :
    encode w (.fastRead (.full A clocks)) = byteBits 0x0B ++ toBits w.bits A ++ clocks := (List.append_assoc ..).symm

/-- Settles O11: from the first edge after the address the data phase is that of the loaded bytes. -/
theorem readTransaction : Obligations.ReadTransaction := by
  intro s A clocks h hwf hA
  have hclass : classify s.cfg.addrBits (0x03 : Byte).toNat = .read := by rw [classify_byte]; rfl
  obtain ⟨-, -, -, -, -, hosr⟩ := disengaged_of_clean h
  obtain ⟨-, -, -, htx, -, -, hunit, -⟩ := id h
  have hshift : DummyLeft 0 (sending .read A s) :=
    .inr ⟨(congrArg Tx.ip htx :), (congrArg Tx.jump htx :), (congrArg Tx.osr htx :)⟩
  obtain ⟨t, haddress, hsel, hserves⟩ := serving_clocked h hwf hA hclass (settle_addressed_read A h) hunit hshift
  obtain ⟨u, outs, hdata, hlen, hserves'⟩ := clocked_data clocks hsel hserves
  rw [List.nil_append] at hserves'
  obtain ⟨R, hR, houts⟩ := hserves'.dataStream_eq
  obtain ⟨e, d, hbusy, hunit', hend⟩ := transact_of_serves h hwf (haddress.append hdata) hserves'
  rw [hlen] at houts
  rw [houts, ← List.append_assoc s.trace] at hend
  exact ⟨R, e, d, hR, hbusy, hunit', by rw [exec_eq_transact, encode_read]; exact hend⟩

/-- Settles O12: the first eight edges after the address are the dummy byte, and the data phase follows. -/
theorem fastReadTransaction : Obligations.FastReadTransaction := by
  intro s A clocks h hwf hA
  have hclass : classify s.cfg.addrBits (0x0B : Byte).toNat = .fastRead := by rw [classify_byte]; rfl
  obtain ⟨-, -, -, htx, -⟩ := id h
  have hleft : DummyLeft 8 (sending .fastRead A s) :=
    .inr ⟨rfl, (congrArg Tx.ip htx :), rfl, (congrArg Tx.osr htx :)⟩
  obtain ⟨t, haddress, hsel, hserves⟩ := serving_clocked h hwf hA hclass (settle_addressed_fastRead A h) rfl hleft
  obtain ⟨u, dummy, hdummies, hdummy, hserves'⟩ :=
    clocked_dummies (clocks.take 8) hsel hserves (List.length_take_le 8 clocks)
  have hsel' := hsel.of_clocked hdummies
  have hdata : ∃ v outs n, Clocked (clocks.drop 8) u v outs ∧ outs.length = clocks.length - 8 ∧
      Serves s A .w8 outs n v := by
    rcases Nat.lt_or_ge clocks.length 8 with hshort | hlong
    · refine ⟨u, [], _, ?_, by simp; omega, hserves'⟩
      rw [List.drop_eq_nil_of_le hshort.le]
      exact .nil u
    · rw [List.length_take_of_le hlong] at hserves'
      obtain ⟨v, outs, hdata, hlen, hserves''⟩ := clocked_data (clocks.drop 8) hsel' hserves'
      exact ⟨v, outs, 0, hdata, by rw [hlen, List.length_drop], by rwa [List.nil_append] at hserves''⟩
  obtain ⟨v, outs, n, hdata, hlen, hserves''⟩ := hdata
  obtain ⟨R, hR, houts⟩ := hserves''.dataStream_eq
  have hall := (haddress.append hdummies).append hdata
  rw [List.append_assoc _ (clocks.take 8), List.take_append_drop] at hall
  obtain ⟨e, d, hbusy, hunit', hend⟩ := transact_of_serves h hwf hall hserves''
  rw [hlen] at houts
  have hlimit : SdeUnit.w8.bytes * readXferCount = readXferCount := Nat.one_mul _
  rw [houts, hlimit, ← List.append_assoc s.trace, ← List.append_assoc s.trace] at hend
  exact ⟨R, dummy, e, d, hR, by rw [hdummy, List.length_take], hbusy, hunit',
    by rw [exec_eq_transact, encode_fastRead]; exact hend⟩

end Sys2Proof.Machine
end

section
/-!
What the commands do together (`44_commands.md` R137, R139): a READ returns what was written, a FAST_READ what a READ
returns, and every command ends in the clean state.
-/
namespace Sys2Proof.Machine

variable {s : State} {A : Nat}

/-! ### Round trips and equivalences -/

theorem data_of_readsArray {R : Nat → Byte} {data : List Byte} (hR : ReadsArray s A R)
    (hdata : ∀ k (h : k < data.length), data[k] = readMem s (A + k)) (hin : A + data.length ≤ s.cfg.memSize) :
    ∀ k (h : k < data.length), R k = data[k] := fun k hk => by
  rw [hR k (by omega), hdata k hk]

/-- Writes inside the array record no fault. -/
theorem faultsOfWrites_of_inside {size : Nat} {as : List Nat} (fs : List SpecFault) (h : ∀ a ∈ as, a < size) :
    faultsOfWrites size as fs = fs := by
  induction as with
  | nil => rfl
  | cons a as ih =>
    obtain ⟨ha, has⟩ := List.forall_mem_cons.1 h
    rw [faultsOfWrites, if_pos ha, ih has]

/-- A READ inside the array and the transfer limit returns the array's bytes. -/
theorem read_returns {data : List Byte} {clocks : List Bool} (h : CleanControl s) (hwf : s.cfg.wf)
    (hA : A < 2 ^ s.cfg.addrBits.bits) (hin : A + data.length ≤ s.cfg.memSize)
    (hdata : ∀ k (h : k < data.length), data[k] = readMem s (A + k)) (hlimit : data.length ≤ 4 * readXferCount)
    (hclocks : clocks.length = 8 * data.length) :
    ∃ t, exec (.read (.full A clocks)) s = .next t ∧
      t.trace = s.trace ++ idles (frameC s) ++ driven (bytesBits data) ∧ t.mem = s.mem ∧ t.faults = s.faults := by
  obtain ⟨R, e, d, hR, -, -, hexec⟩ := readTransaction s A clocks h hwf hA
  rw [hclocks, dataStream_of_bytes (data_of_readsArray hR hdata hin) hlimit] at hexec
  exact ⟨_, hexec, rfl, rfl, rfl⟩

/-- Settles O17: inside the array the WRITE records no fault, and what it stored is what the READ returns. -/
theorem writeThenReadYieldsData : Obligations.WriteThenReadYieldsData := by
  intro s A data clocks h hwf hA hin hcount hlimit hclocks
  obtain ⟨m, hstored, -, hwrite⟩ := writeTransaction s A data [] h hwf hA (by decide) hcount
  have hfaults := faultsOfWrites_of_inside (size := s.cfg.memSize) (as := (List.range data.length).map (A + ·)) s.faults
    (by simp; omega)
  rw [hfaults] at hwrite
  obtain ⟨hrun, hcsn, hrx, htx, hhoe, hsde, hunit, -, hdisp⟩ := h
  obtain ⟨t, hread, htrace, hmem, hfaults'⟩ := read_returns
    (s := ((((s.setMem m).setRve ⟨false, A + data.length, s.cfg.rveXferCount - data.length⟩).setFaults s.faults).setTrace
      (s.trace ++ idles (frameC s + 8 * data.length + ([] : List Bool).length))))
    (data := data) ⟨hrun, hcsn, hrx, htx, hhoe, hsde, hunit, rfl, hdisp⟩ hwf hA hin
    (fun k hk => (hstored k hk (by omega)).symm) hlimit hclocks
  exact ⟨_, t, hwrite, hread, htrace, hmem, hfaults'⟩

/-- Settles O18: both data phases are those of the array's bytes. -/
theorem fastReadYieldsWhatReadYields : Obligations.FastReadYieldsWhatReadYields := by
  intro s A n clocks fastClocks h hwf hA hin hn hclocks hfast
  have hlen : (List.ofFn fun k : Fin n => readMem s (A + k)).length = n := List.length_ofFn
  have hdata : ∀ k (h : k < (List.ofFn fun k : Fin n => readMem s (A + k)).length),
      (List.ofFn fun k : Fin n => readMem s (A + k))[k] = readMem s (A + k) := fun k hk => by simp
  have hlimit : readXferCount ≤ 4 * readXferCount := by omega
  obtain ⟨t, hread, htrace, hmem, -⟩ := read_returns h hwf hA (by rwa [hlen]) hdata (by omega) (by rw [hlen, hclocks])
  obtain ⟨R, dummy, e, d, hR, hdummy, -, -, hexec⟩ := fastReadTransaction s A fastClocks h hwf hA
  have hbits : fastClocks.length - 8 = 8 * (List.ofFn fun k : Fin n => readMem s (A + k)).length := by omega
  rw [hbits, dataStream_of_bytes (data_of_readsArray hR hdata (by rwa [hlen])) (by omega)] at hexec
  exact ⟨t, _, _, dummy, hread, hexec, by rw [bytesBits_length, hlen], by omega, htrace, rfl, hmem⟩

/-- Settles O20: an untouched array reads as the pattern, whose byte at an offset is the offset modulo 256. -/
theorem wideAddressReadsPattern : Obligations.WideAddressReadsPattern := by
  intro s clocks h hwf hwide hpreserve hmem hsize hclocks
  have hpattern : ∀ a, readMem s a = BitVec.ofNat 8 a := fun a => by
    simp [readMem, memRead, memLookup, memDefault, hpreserve, hmem]
  have hbytes : ∀ k (h : k < 3), ([0x56, 0x57, 0x58] : List Byte)[k] = BitVec.ofNat 8 (0x123456 + k) := by decide
  have hdata : ∀ k (h : k < ([0x56, 0x57, 0x58] : List Byte).length),
      ([0x56, 0x57, 0x58] : List Byte)[k] = readMem s (0x123456 + k) := fun k hk => (hbytes k hk).trans (hpattern _).symm
  obtain ⟨t, hread, htrace, -⟩ := read_returns (A := 0x123456) (data := [0x56, 0x57, 0x58]) h hwf
    (by rw [hwide]; decide) hsize hdata (by decide) hclocks
  have hframe : frameC s = 32 := by rw [frameC, hwide]; rfl
  exact ⟨t, hread, by rw [htrace, hframe]⟩

/-! ### Every command -/

/-- A WRITE of more bytes than the engine has transfers is one that stores the first of them, with the rest
trailing. -/
theorem encode_write_take (w : AddrBits) (A n : Nat) (data : List Byte) (trail : List Bool) :
    encode w (.write (.full A data trail)) =
      encode w (.write (.full A (data.take n) (bytesBits (data.drop n) ++ trail))) := by
  have hsplit : bytesBits data = bytesBits (data.take n) ++ bytesBits (data.drop n) := by
    rw [← bytesBits_append, List.take_append_drop]
  simp [encode, Instr.cmdByte, Instr.body, encodeWriteArgs, hsplit]

/-- A WRITE completes and leaves the machine clean, whatever its length (R137). -/
theorem exec_write_clean {data : List Byte} {trail : List Bool} (h : CleanControl s) (hwf : s.cfg.wf)
    (hA : A < 2 ^ s.cfg.addrBits.bits) (htrail : trail.length < 8) :
    ∃ t, exec (.write (.full A data trail)) s = .next t ∧ CleanControl t ∧ t.cfg = s.cfg ∧ t.inbox = s.inbox := by
  have hclean : ∀ (m : Memory) (a c : Nat) (fs : List SpecFault) (tr : List Output),
      CleanControl ((((s.setMem m).setRve ⟨false, a, c⟩).setFaults fs).setTrace tr) := fun _ _ _ _ _ => by
    obtain ⟨hrun, hcsn, hrx, htx, hhoe, hsde, hunit, -, hdisp⟩ := h
    exact ⟨hrun, hcsn, hrx, htx, hhoe, hsde, hunit, rfl, hdisp⟩
  rcases Nat.lt_or_ge s.cfg.rveXferCount data.length with hmore | hfew
  · have hlen : (data.take s.cfg.rveXferCount).length = s.cfg.rveXferCount := List.length_take_of_le hmore.le
    have hexec := exec_write (trail := bytesBits (data.drop s.cfg.rveXferCount) ++ trail) h hwf hA hlen.le (.inr hlen)
    rw [exec_eq_transact, ← encode_write_take, ← exec_eq_transact] at hexec
    exact ⟨_, hexec, hclean _ _ _ _ _, rfl, rfl⟩
  · exact ⟨_, exec_write h hwf hA hfew (.inl htrail), hclean _ _ _ _ _, rfl, rfl⟩

/-- Settles O16, by the command: each one's whole effect is known, and it leaves the control part alone. -/
theorem everyCommandReturnsToClean : Obligations.EveryCommandReturnsToClean := by
  intro s i h hwf hi
  have hread : ∀ (e : Sde) (d : Nat) (tr : List Output), e.busy = false → e.unit = .w32Bswap →
      CleanControl (((s.setSde e).setDraws d).setTrace tr) := fun e d tr hbusy hunit => by
    obtain ⟨hrun, hcsn, hrx, htx, hhoe, -, -, hrve, hdisp⟩ := h
    exact ⟨hrun, hcsn, hrx, htx, hhoe, hbusy, hunit, hrve, hdisp⟩
  cases i with
  | read args =>
    cases args with
    | cut got =>
      obtain ⟨hcut, -⟩ := cutAddressTransaction s got h hwf (of_decide_eq_true hi)
      exact ⟨_, hcut, h, rfl, rfl, fun _ => ⟨rfl, rfl⟩⟩
    | full A clocks =>
      obtain ⟨R, e, d, -, hbusy, hunit, hexec⟩ := readTransaction s A clocks h hwf (of_decide_eq_true hi)
      exact ⟨_, hexec, hread e d _ hbusy hunit, rfl, rfl, fun _ => ⟨rfl, rfl⟩⟩
  | fastRead args =>
    cases args with
    | cut got =>
      obtain ⟨-, hcut, -⟩ := cutAddressTransaction s got h hwf (of_decide_eq_true hi)
      exact ⟨_, hcut, h, rfl, rfl, fun _ => ⟨rfl, rfl⟩⟩
    | full A clocks =>
      obtain ⟨R, dummy, e, d, -, -, hbusy, hunit, hexec⟩ := fastReadTransaction s A clocks h hwf (of_decide_eq_true hi)
      exact ⟨_, hexec, hread e d _ hbusy hunit, rfl, rfl, fun _ => ⟨rfl, rfl⟩⟩
  | write args =>
    cases args with
    | cut got =>
      obtain ⟨-, -, hcut, -⟩ := cutAddressTransaction s got h hwf (of_decide_eq_true hi)
      exact ⟨_, hcut, h, rfl, rfl, fun _ => ⟨rfl, rfl⟩⟩
    | full A data trail =>
      obtain ⟨hA, htrail⟩ : A < 2 ^ s.cfg.addrBits.bits ∧ trail.length < 8 := by
        simpa [Instr.wf, WriteArgs.wf, addrOk] using hi
      obtain ⟨t, hexec, hclean, hcfg, hinbox⟩ := exec_write_clean (data := data) h hwf hA htrail
      exact ⟨t, hexec, hclean, hcfg, hinbox, fun hne => absurd rfl (hne _)⟩
  | unknown cmd rest => exact ⟨_, unknownTransaction s cmd rest h hwf hi, h, rfl, rfl, fun _ => ⟨rfl, rfl⟩⟩

end Sys2Proof.Machine
end

section
/-!
The record of faults (`10_state.md` R37, `60_exceptions.md` R163, R167): every internal step and every event keeps what
is recorded, and none of them raises `EarlySelect`.
-/
namespace Sys2Proof.Machine

variable {s t u : State}

/-! ### One record continues another -/

/-- The faults of `t` continue those of `s`, and no `EarlySelect` is new among them. -/
def FaultsGrow (s t : State) : Prop :=
  s.faults <+: t.faults ∧ (.earlySelect ∈ t.faults → .earlySelect ∈ s.faults)

theorem FaultsGrow.of_eq (h : t.faults = s.faults) : FaultsGrow s t := by
  rw [FaultsGrow, h]
  exact ⟨List.prefix_rfl, id⟩

theorem FaultsGrow.trans (hst : FaultsGrow s t) (htu : FaultsGrow t u) : FaultsGrow s u := by
  obtain ⟨hprefix, hearly⟩ := hst
  obtain ⟨hprefix', hearly'⟩ := htu
  exact ⟨hprefix.trans hprefix', hearly ∘ hearly'⟩

/-- Raising any fault but `EarlySelect` appends it, or finds it recorded. -/
theorem faultsGrow_raiseFault (f : SpecFault) (hf : .earlySelect ≠ f) (s : State) : FaultsGrow s (raiseFault f s) := by
  refine ⟨?_, fun hmem => ((mem_raiseFault s f _).1 hmem).resolve_right hf⟩
  rcases raiseFault_spec s f with ⟨heq, -⟩ | ⟨heq, -⟩ <;> rw [heq]
  exact List.prefix_append _ _

/-- A store raises `WriteOutOfRange` at most (R164). -/
theorem faultsGrow_storeByte (a : Nat) (v : Byte) (s : State) : FaultsGrow s (storeByte a v s) := by
  rcases storeByte_spec s a v with ⟨-, heq⟩ | ⟨-, heq⟩ <;> rw [heq]
  · exact .of_eq rfl
  · exact faultsGrow_raiseFault (.writeOutOfRange a) nofun s

/-! ### Internal steps -/

/-- Of the agents only the receive-side engine raises a fault. -/
theorem faultsGrow_internal (h : internal s = some t) : FaultsGrow s t := by
  obtain ⟨-, hstep | hstep | hstep | hstep | hstep⟩ := internal_cases h
  · obtain ⟨-, -, rfl⟩ := rxUnstall_eq_some.1 hstep
    exact .of_eq rfl
  · obtain ⟨e, es, -, -, -, rfl⟩ := hoeStep_eq_some.1 hstep
    exact .of_eq rfl
  · obtain ⟨-, -, -, rfl⟩ := sdeStep_eq_some.1 hstep
    exact .of_eq (by simp [sdeNext])
  · obtain ⟨e, es, -, -, -, rfl⟩ := rveStep_eq_some.1 hstep
    exact (faultsGrow_storeByte s.rve.waddr (dataByte e) s).trans (.of_eq (rveNext_faults e s))
  · exact .of_eq (dispStep_keeps_mem_faults hstep).2

theorem FaultsGrow.settle (h : FaultsGrow s t) : FaultsGrow s (settle t) :=
  settle_induction (P := FaultsGrow s) (fun _ _ hu huv => hu.trans (faultsGrow_internal huv)) h

/-! ### Events -/

theorem faultsGrow_selectFall (s : State) : FaultsGrow s (selectFall s) := by
  have hlow : FaultsGrow s (s.setCsn false) := .of_eq rfl
  unfold selectFall
  split
  · exact hlow.trans (faultsGrow_raiseFault .prematureTraffic nofun _)
  · exact hlow.settle
  · exact .of_eq rfl

theorem faultsGrow_selectRise (s : State) : FaultsGrow s (selectRise s) := by
  have hhigh : FaultsGrow s (s.setCsn true) := .of_eq rfl
  unfold selectRise
  split
  · exact hhigh
  · split
    · exact (hhigh.trans (faultsGrow_raiseFault .shortCommand nofun _)).settle
    · exact hhigh.settle
  · exact .of_eq rfl

theorem faultsGrow_clockRest (b : Bool) (o : So) (s : State) : FaultsGrow s (clockRest b o s) := by
  have hedge : FaultsGrow s (settle (rxEdge b s)) := by
    refine .settle (.of_eq ?_)
    rw [rxEdge_only_rx, State.setRx_faults]
  exact hedge.trans (.of_eq rfl)

theorem faultsGrow_clock {b : Bool} (h : clock b s = .next t) : FaultsGrow s t := by
  unfold clock at h
  split at h
  case h_1 => cases h; exact (faultsGrow_raiseFault .prematureTraffic nofun s).trans (.of_eq rfl)
  case h_2 => cases h; exact .of_eq rfl
  case h_3 =>
    split at h
    · split at h
      case h_1 r hr =>
        cases h
        have htx : r.2.faults = s.faults := by rw [txClock_only_tx (o := r.1) hr]; rfl
        exact .trans (.of_eq htx) (faultsGrow_clockRest b r.1 r.2)
      case h_2 => cases h
    · cases h; exact faultsGrow_clockRest b .idle s

theorem faultsGrow_sample (s : State) : FaultsGrow s (sample s) := by
  unfold sample
  split
  · refine .settle (.of_eq ?_)
    rcases dispSample_spec s with ⟨-, heq⟩ | ⟨-, heq⟩ <;> rw [heq]
    rfl
  · exact .of_eq rfl

theorem faultsGrow_hostRead (i : Nat) (s : State) : FaultsGrow s (hostRead i s) := by
  unfold hostRead
  split
  · split <;> exact .of_eq rfl
  · split
    · exact .of_eq rfl
    · exact (faultsGrow_raiseFault (.hostRace i) nofun s).trans (.of_eq rfl)

theorem faultsGrow_hostWrite (i : Nat) (v : Byte) (s : State) : FaultsGrow s (hostWrite i v s) := by
  unfold hostWrite
  split
  · exact faultsGrow_storeByte i v s
  · split
    · exact .of_eq rfl
    · exact faultsGrow_raiseFault (.hostRace i) nofun s

/-- Of the parts of setup only the check of the bus raises a fault (R166). -/
theorem faultsGrow_setupRun (ok : Bool) (s : State) : FaultsGrow s (setupRun ok s) := by
  have hfill : (setupFill s).faults = s.faults := by unfold setupFill; split <;> rfl
  cases ok with
  | false => exact .of_eq hfill
  | true =>
    have hlaunch : FaultsGrow s (setupLaunch (setupConfigure (setupFill s))) := .of_eq hfill
    rw [setupRun, if_pos rfl, setupCheckBus]
    split
    · exact hlaunch
    · exact hlaunch.trans (faultsGrow_raiseFault .prematureTraffic nofun _)

theorem faultsGrow_setup {ok : Bool} (h : setup ok s = .next t) : FaultsGrow s t := by
  unfold setup at h
  split at h
  case h_1 => cases h; exact (faultsGrow_setupRun ok s).settle
  case h_2 => cases h
  case h_3 => cases h

theorem faultsGrow_doEvent {e : Event} (h : doEvent e s = .next t) : FaultsGrow s t := by
  cases e with
  | setup ok => exact faultsGrow_setup h
  | selectFall => cases h; exact faultsGrow_selectFall s
  | selectRise => cases h; exact faultsGrow_selectRise s
  | clock b => exact faultsGrow_clock h
  | sample => cases h; exact faultsGrow_sample s
  | hostRead i => cases h; exact faultsGrow_hostRead i s
  | hostWrite i v => cases h; exact faultsGrow_hostWrite i v s

theorem faultsGrow_doEvents {es : List Event} (h : doEvents es s = .next t) : FaultsGrow s t := by
  induction es generalizing s with
  | nil => cases h; exact .of_eq rfl
  | cons e es ih =>
    obtain ⟨u, hu, htail⟩ := andThen_eq_next.1 h
    exact (faultsGrow_doEvent hu).trans (ih htail)

/-- Settles O57: a step is a sample, an event or a frame's events, and the record grows along each of them. -/
theorem faultsOnlyGrow : Obligations.FaultsOnlyGrow := by
  intro s t h
  cases hin : s.inbox with
  | nil =>
    rw [step_of_inbox_nil hin] at h
    cases h
    exact faultsGrow_sample s
  | cons input rest =>
    cases input with
    | event e =>
      rw [step_of_inbox_event hin] at h
      exact faultsGrow_doEvent (s := s.setInbox rest) h
    | frame bits =>
      rw [step_of_inbox_frame hin] at h
      exact faultsGrow_doEvents (s := s.setInbox rest) h

end Sys2Proof.Machine
end

section
/-!
A command byte that is cut short (`60_exceptions.md` R154, vector V90): its bits are collected, the rising select
records `ShortCommand`, and the dispatcher, still in `IDLE`, takes no sample.
-/
namespace Sys2Proof.Machine

variable {s : State}

/-- A selected machine that collects a word, has nothing to send and no step to take. Unlike `Listening` it does not
ask for an admitted build: no word is completed, so no queue's depth matters. -/
structure Collecting (s : State) : Prop where
  run : s.sys.phase = .running
  low : s.csn = false
  quiet : Quiescent s
  enabled : s.rx.en = true
  notStalled : s.rx.stalled = false
  txEntry : s.tx.ip = .entry
  txEmpty : s.tx.fifo = []

theorem Collecting.of_clean (h : CleanControl s) : Collecting (s.setCsn false) := by
  have hq := quiescent_setCsn false (quiescent_of_clean h)
  obtain ⟨hrun, -, hrx, htx, -⟩ := h
  exact ⟨hrun, rfl, hq, by simp [hrx, Rx.initial], by simp [hrx, Rx.initial], by simp [htx, Tx.initial],
    by simp [htx, Tx.initial]⟩

/-- A clock edge that completes no word collects its bit, and the master samples `IDLE` (R81, R91). -/
theorem Collecting.clock_eq (b : Bool) (h : Collecting s) (hmore : rxCnt s + 1 < rxTarget s.cfg.addrBits s.rx.ip) :
    clock b s = .next (emit (.so .idle) (rxShiftIn b s)) ∧ Collecting (emit (.so .idle) (rxShiftIn b s)) := by
  obtain ⟨hclock, hq⟩ := clock_collects b h.run h.low h.quiet h.enabled h.notStalled hmore h.txEntry h.txEmpty
  exact ⟨hclock, h.run, h.low, hq, h.enabled, h.notStalled, h.txEntry, h.txEmpty⟩

/-- The machine after clock edges that complete no word: their bits are collected and `IDLE` was returned at each. -/
def collected (bits : List Bool) (s : State) : State :=
  (s.setRx { s.rx with isr := s.rx.isr ++ bits }).setTrace (s.trace ++ idles bits.length)

theorem collected_nil (s : State) : collected [] s = s := by
  rw [collected, List.append_nil, List.length_nil, idles, List.replicate_zero, List.append_nil]
  rfl

theorem collected_cons (b : Bool) (bits : List Bool) (s : State) :
    collected (b :: bits) s = collected bits (emit (.so .idle) (rxShiftIn b s)) := by
  have hbits : s.rx.isr ++ b :: bits = s.rx.isr ++ [b] ++ bits := by simp
  have houts : s.trace ++ idles (bits.length + 1) = s.trace ++ [.so .idle] ++ idles bits.length := by
    simp [idles, List.replicate_succ]
  rw [collected, List.length_cons, hbits, houts]
  rfl

theorem quiescent_collected (bits : List Bool) (h : Quiescent s) : Quiescent (collected bits s) :=
  (quiescent_congr (s := s) (t := collected bits s) rfl rfl rfl rfl rfl rfl rfl rfl rfl rfl rfl).2 h

theorem Collecting.clocks_eq {bits : List Bool} (h : Collecting s)
    (hmore : rxCnt s + bits.length < rxTarget s.cfg.addrBits s.rx.ip) :
    doEvents (bits.map .clock) s = .next (collected bits s) := by
  induction bits generalizing s with
  | nil => rw [collected_nil]; rfl
  | cons b bits ih =>
    rw [List.length_cons] at hmore
    obtain ⟨hclock, hnext⟩ := h.clock_eq b (by omega)
    have hcnt : rxCnt (emit (.so .idle) (rxShiftIn b s)) = rxCnt s + 1 := by simp [rxCnt]
    have hmore' : rxCnt s + 1 + bits.length < rxTarget s.cfg.addrBits s.rx.ip := by omega
    rw [List.map_cons, doEvents_cons, doEvent, hclock, andThen_next, collected_cons]
    exact ih hnext (by rwa [hcnt])

/-- A rising select that leaves 1 to 7 bits behind records `ShortCommand` and moves the select line (R154). -/
theorem selectRise_of_short (hrun : s.sys.phase = .running) (hq : Quiescent s)
    (hshort : leavesShortCommand s = true) : selectRise s = raiseFault .shortCommand (s.setCsn true) := by
  rw [selectRise, hrun, hshort]
  exact settle_of_quiescent (quiescent_raiseFault _ (quiescent_setCsn true hq))

/-- The deselect of a machine that holds 1 to 7 bits of a command byte: the dispatcher is still in `IDLE`, where it
takes no sample. -/
theorem deselect_of_short (hrun : s.sys.phase = .running) (hq : Quiescent s) (hshort : leavesShortCommand s = true) :
    doEvents deselect s = .next (raiseFault .shortCommand (s.setCsn true)) := by
  have hidle : s.disp.state = .idle := by
    simp only [leavesShortCommand, Bool.and_eq_true, decide_eq_true_eq] at hshort
    obtain ⟨⟨hidle, -⟩, -⟩ := hshort
    exact hidle
  have hsample : sample (raiseFault .shortCommand (s.setCsn true)) = raiseFault .shortCommand (s.setCsn true) :=
    sample_of_idle (by simpa using hidle) (quiescent_raiseFault _ (quiescent_setCsn true hq))
  simp [deselect, doEvent, selectRise_of_short hrun hq hshort, hsample]

/-- Settles O22: the clock edges collect the bits, which the deselect leaves where they are. -/
theorem shortCommandIsRecorded : Obligations.ShortCommandIsRecorded := by
  intro s bits hclean hpos hseven
  have hq := quiescent_of_clean hclean
  have hclocks := (Collecting.of_clean hclean).clocks_eq (bits := bits)
  obtain ⟨hrun, hcsn, hrx, -, -, -, -, -, hdisp⟩ := hclean
  have hmore : rxCnt (s.setCsn false) + bits.length < rxTarget s.cfg.addrBits (s.setCsn false).rx.ip := by
    simpa [rxCnt, hrx, Rx.initial, rxTarget] using Nat.lt_succ_of_le hseven
  have hshort : leavesShortCommand (collected bits (s.setCsn false)) = true := by
    simp [leavesShortCommand, collected, rxCnt, hrx, hdisp, Rx.initial, Disp.initial, hpos, hseven]
  have hhigh : (collected bits (s.setCsn false)).setCsn true =
      (s.setRx { s.rx with isr := bits }).setTrace (s.trace ++ idles bits.length) := by
    have hisr : (s.setCsn false).rx.isr = [] := by rw [State.setCsn_rx, hrx]; rfl
    rw [collected, hisr, List.nil_append, ← hcsn]
    rfl
  have hdeselect := deselect_of_short (s := collected bits (s.setCsn false)) hrun
    (quiescent_collected bits (quiescent_setCsn false hq)) hshort
  rw [transact_eq, selectFall_of_quiescent hrun hq, hclocks hmore, andThen_next, hdeselect, hhigh]

end Sys2Proof.Machine
end

section
/-!
Events out of their place (`60_exceptions.md` R152, R165, R166): host accesses outside the quiescent window, every
event of a halted machine, and bus traffic before setup.
-/
namespace Sys2Proof.Machine

variable {s : State}

/-! ### Host accesses outside the window -/

/-- Before setup there is no window; a running machine is out of it while it serves, while it is selected, and while
it holds bits of a command byte (R53). -/
theorem hostWindow_eq_false
    (h : s.sys.phase = .preSetup ∨ s.sys.phase = .running ∧ (s.disp.state ≠ .idle ∨ s.csn = false ∨ s.rx.isr ≠ [])) :
    hostWindow s = false := by
  refine Bool.eq_false_iff.2 fun hw => ?_
  obtain ⟨hrun, hidle, hcsn, hisr⟩ := hostWindow_eq_true.1 hw
  rcases h with hpre | ⟨-, hserving | hlow | hbits⟩
  · simp [hrun] at hpre
  · exact hserving hidle
  · simp [hcsn] at hlow
  · exact hbits hisr

theorem hostWrite_of_race (i : Nat) (v : Byte) (hw : hostWindow s = false) (hphase : s.sys.phase ≠ .halted) :
    hostWrite i v s = raiseFault (.hostRace i) s := by
  simp [hostWrite, hw, hphase]

/-- The host is returned a draw. -/
theorem hostDraw_eq (i : Nat) (s : State) :
    hostDraw i s = (s.setTrace (s.trace ++ [.host i (Config.freeByte s.draws)])).setDraws (s.draws + 1) := rfl

theorem hostRead_of_race (i : Nat) (hw : hostWindow s = false) (hphase : s.sys.phase ≠ .halted) :
    hostRead i s = hostDraw i (raiseFault (.hostRace i) s) := by
  simp [hostRead, hw, hphase]

/-- Settles O48: outside the window a machine that is not halted races. -/
theorem hostAccessOutsideWindowRaces : Obligations.HostAccessOutsideWindowRaces := by
  intro s i v h
  have hw := hostWindow_eq_false h
  have hphase : s.sys.phase ≠ .halted := by
    rcases h with hpre | ⟨hrun, -⟩
    · simp [hpre]
    · simp [hrun]
  refine ⟨congrArg _ (hostWrite_of_race i v hw hphase), Config.freeByte s.draws, s.draws + 1, ?_⟩
  simp [doEvent, hostRead_of_race i hw hphase, hostDraw_eq]

/-! ### A halted machine -/

theorem hostWindow_of_halted (hhalt : s.sys.phase = .halted) : hostWindow s = false := by
  simp [hostWindow, running, hhalt]

theorem setup_of_preSetup (ok : Bool) (hpre : s.sys.phase = .preSetup) :
    setup ok s = .next (settle (setupRun ok s)) := by
  simp [setup, hpre]

/-- Settles O50: a failed claim halts, and of the events that can follow it only a clock edge and a host read do
anything: they return a value. -/
theorem failedClaimHaltsForEver : Obligations.FailedClaimHaltsForEver := by
  refine ⟨fun s hpre => ⟨_, setup_of_preSetup false hpre, by simp [setupRun_sys]⟩, fun s e hhalt he => ?_⟩
  have hw := hostWindow_of_halted hhalt
  cases e with
  | setup ok => exact absurd rfl (he ok)
  | clock b => exact ⟨[.so .idle], s.draws, by rw [doEvent, clock, hhalt]; rfl, fun _ _ => rfl⟩
  | hostRead i => exact ⟨[.host i (Config.freeByte s.draws)], s.draws + 1,
      by simp [doEvent, hostRead, hw, hhalt, hostDraw_eq], nofun⟩
  | hostWrite i v => exact ⟨[], s.draws, by simp [doEvent, hostWrite, hw, hhalt], nofun⟩
  | selectFall => exact ⟨[], s.draws, by simp [doEvent, selectFall, hhalt], nofun⟩
  | selectRise => exact ⟨[], s.draws, by simp [doEvent, selectRise, hhalt], nofun⟩
  | sample => exact ⟨[], s.draws, by simp [doEvent, sample, running, hhalt], nofun⟩

/-! ### Traffic before setup -/

/-- A setup that completes while selected finds the bus in use (R166, R187). -/
theorem prematureTraffic_mem_setupRun (hlow : s.csn = false) : .prematureTraffic ∈ (setupRun true s).faults := by
  have hcsn : (setupLaunch (setupConfigure (setupFill s))).csn = false := by
    rw [← hlow]
    unfold setupFill
    split <;> rfl
  rw [setupRun, if_pos rfl, setupCheckBus, hcsn]
  exact (mem_raiseFault _ _ _).2 (.inr rfl)

/-- Settles O51: each of the three events raises the fault, and the internal steps after setup keep it. -/
theorem trafficBeforeSetupIsRecorded : Obligations.TrafficBeforeSetupIsRecorded := by
  intro s t e hpre ht htraffic
  rcases htraffic with rfl | ⟨b, rfl⟩ | ⟨rfl, hlow⟩
  · rw [doEvent, selectFall, hpre] at ht
    cases ht
    simp
  · rw [doEvent, clock, hpre] at ht
    cases ht
    simp
  · rw [doEvent, setup_of_preSetup true hpre] at ht
    cases ht
    obtain ⟨hprefix, -⟩ : FaultsGrow (setupRun true s) (settle (setupRun true s)) := .settle (.of_eq rfl)
    exact hprefix.subset (prematureTraffic_mem_setupRun hlow)

end Sys2Proof.Machine
end

section
/-!
Reset and hazards (`70_reset_and_hazards.md` R172 to R177, R185): what setup leaves, why there is no second one, and
clock edges of a deselected machine.
-/
namespace Sys2Proof.Machine

variable {s : State}

/-! ### The untouched array -/

/-- In a build without `PRESERVE` an array in which nothing is listed holds the fill pattern (R172). -/
theorem readMem_of_untouched (hpreserve : s.cfg.preserve = false) (hmem : s.mem = []) (a : Nat) :
    readMem s a = BitVec.ofNat 8 (a % 256) := by
  have hbyte : readMem s a = BitVec.ofNat 8 a := by simp [readMem, memRead, memLookup, memDefault, hpreserve, hmem]
  exact hbyte.trans (BitVec.eq_of_toNat_eq (by simp))

/-! ### Setup -/

/-- The fill touches the array alone, and leaves it in a build with `PRESERVE` (R172). -/
theorem setupFill_eq (s : State) : setupFill s = s.setMem (if s.cfg.preserve then s.mem else []) := by
  unfold setupFill
  split <;> rfl

/-- A successful setup of a deselected machine fills, configures and launches, and records no fault (R171). -/
theorem setupRun_of_deselected (hcsn : s.csn = true) :
    setupRun true s = setupLaunch (setupConfigure (setupFill s)) := by
  have hbus : (setupLaunch (setupConfigure (setupFill s))).csn = true := by rw [setupFill_eq]; exact hcsn
  rw [setupRun, if_pos rfl, setupCheckBus, if_pos hbus]

/-- Whatever the engines and queues held before setup, the core is launched clean on a deselected bus (R174, R175). -/
theorem cleanControl_setupLaunch (hcsn : s.csn = true) : CleanControl (setupLaunch (setupConfigure (setupFill s))) := by
  rw [setupFill_eq]
  exact ⟨rfl, hcsn, rfl, rfl, rfl, rfl, rfl, rfl, rfl⟩

/-- A launched core is quiescent, so the state after setup is the one it is launched in. -/
theorem doEvent_setup_of_deselected (hpre : s.sys.phase = .preSetup) (hcsn : s.csn = true) :
    doEvent (.setup true) s = .next (setupLaunch (setupConfigure (setupFill s))) := by
  rw [doEvent, setup_of_preSetup true hpre, setupRun_of_deselected hcsn,
    settle_of_quiescent (quiescent_of_clean (cleanControl_setupLaunch hcsn))]

/-- Settles O49: setup launches the core over the filled array, with the engines' pointers and counts kept. -/
theorem setupReachesCleanState : Obligations.SetupReachesCleanState := by
  intro s hpre hcsn
  refine ⟨_, doEvent_setup_of_deselected hpre hcsn, cleanControl_setupLaunch hcsn, ?_⟩
  rw [setupFill_eq]
  refine ⟨rfl, rfl, fun hfill => readMem_of_untouched hfill ?_, fun hkeep => ?_, rfl, rfl, rfl, rfl⟩
  · exact if_neg (by simp [hfill])
  · exact if_pos hkeep

/-- Settles O52: a machine past its setup is running or halted, and either refuses another one. -/
theorem secondSetupIsRefused : Obligations.SecondSetupIsRefused := by
  intro s ok hset
  cases hphase : s.sys.phase with
  | preSetup => exact absurd hphase hset
  | running => simp [doEvent, setup, hphase]
  | halted => simp [doEvent, setup, hphase]

/-- Settles O53: the reset state is clean by its fields, and its array is untouched. -/
theorem resetIsCleanWithPattern : Obligations.ResetIsCleanWithPattern :=
  ⟨⟨⟨rfl, rfl, rfl, rfl, rfl, rfl, rfl, rfl, rfl⟩, rfl⟩, rfl, readMem_of_untouched rfl rfl⟩

/-! ### Clock edges while deselected -/

/-- Settles O26, by induction on the edges: each records `IDLE` and leaves the machine deselected and quiescent. -/
theorem deselectedClocksAreIgnored : Obligations.DeselectedClocksAreIgnored := by
  intro s bits hrun hcsn hq
  induction bits generalizing s with
  | nil => simp [idles]
  | cons b bits ih =>
    have hrest := ih (emit (.so .idle) s) hrun hcsn (quiescent_emit _ hq)
    rw [List.map_cons, doEvents_cons, doEvent, clock_deselected b hrun hcsn hq, andThen_next, hrest]
    simp [emit, idles, List.replicate_succ]

end Sys2Proof.Machine
end
